-- ==== Sys2Proof/Word.lean ====
section
/-! DEFINITION. Numbers of `W` bits for any width `W` (00_scope.md R9, R11). `W` is a parameter of the block, so a cursor,
a capacity, a length, a command word or a response word is held as the natural number its bits stand for, and sums and
differences of `W` bits are the two operations here. -/

namespace Sys2Proof

/-- The unit of every transfer (R16, R54). -/
abbrev Byte := BitVec 8

/-- The sum of two `w`-bit numbers, modulo `2^w` (R11). -/
def wadd (w a b : Nat) : Nat := (a + b) % 2 ^ w

/-- The difference of two `w`-bit numbers, modulo `2^w` (R11). -/
def wsub (w a b : Nat) : Nat := (a + (2 ^ w - b % 2 ^ w)) % 2 ^ w

end Sys2Proof
end

