-- ==== Sys2Proof/Config.lean ====
section
/-! DEFINITION. What is fixed when the block is built (00_scope.md R9), and the free values: constants without a body
that stand for what the spec leaves unspecified. -/

namespace Sys2Proof

/-- The build parameters of R9. `MAX_CAPACITY` is held as its logarithm, so that it is a power of two by construction
(R9, D4). `ARB_POLICY` is no parameter here: every order of grants is admitted, by the events of `State.script` (R68,
log 12). The machine carries its parameters in `State.params`, which no step writes (log 2). -/
structure Params where
  /-- `W`, the width of cursors, capacity and lengths -/
  width : Nat
  /-- log2 of `MAX_CAPACITY` -/
  maxCapLog : Nat
  /-- `N_REQ`, the number of requester ports -/
  nReq : Nat
  /-- `ASYNC_FLAGS` -/
  asyncFlags : Bool
  /-- `SYNC_STAGES` -/
  syncStages : Nat
deriving DecidableEq, Repr

/-- `MAX_CAPACITY` (R9). -/
def Params.maxCapacity (p : Params) : Nat := 2 ^ p.maxCapLog

/-- The parameters `State.reset` carries: `W`, `ASYNC_FLAGS` and `SYNC_STAGES` at the defaults of R9; `N_REQ` at its
conceptual value 2 and `MAX_CAPACITY` at 4096. DESIGN CHOICE (log 2): the spec leaves the last two open. -/
def Config.params : Params :=
  { width := 32, maxCapLog := 12, nReq := 2, asyncFlags := false, syncStages := 2 }

/-- FREE VALUE: a one-bit output the spec leaves unspecified (R31, R193, R216), by draw and by pin (log 16, 19). -/
opaque Config.freeBit : Nat → Nat → Bool

/-- FREE VALUE: `rd_byte` of a requester while `rd_valid` is 0 (R195), by draw and by requester (log 16). -/
opaque Config.freeByte : Nat → Nat → Byte

/-- FREE VALUE: `rsp_word` of a requester while `rsp_valid` is 0 (R192), by draw and by requester (log 16). -/
opaque Config.freeRsp : Nat → Nat → Nat

/-- FREE VALUE: for each bit, whether a first synchroniser flip-flop captures the old value (R214), by draw and by
cursor (log 18). -/
opaque Config.freeMask : Nat → Nat → Nat

end Sys2Proof
end

