-- ==== Sys2Proof/Syntax.lean ====
section
/-! DEFINITION. The operations of the block: one constructor per row of spec/opcode_table.json (30_encoding.md R80,
R82). -/

namespace Sys2Proof

/-- The eight operations with the operand their command word carries (R82, R83). The operations whose `arg` the block
ignores have no operand (R83). The data bytes of a PUT are not in the word (R84): they stand in the operation in
flight. An operand is a number of `W` bits (R83); `Instr.WellFormed` says so. -/
inductive Instr where
  /-- INIT, `initialize(capacity)` (R100) -/
  | init (capacity : Nat)
  /-- RESET, `reset()` (R106) -/
  | reset
  /-- IS_EMPTY, `is_empty()` (R120) -/
  | isEmpty
  /-- IS_FULL, `is_full()` (R121) -/
  | isFull
  /-- LEN, `len()` (R123) -/
  | len
  /-- PUT, `put(data, length)` (R140) -/
  | put (length : Nat)
  /-- GET, `get(inout length, out data)`: the in value of the length (R150) -/
  | get (req : Nat)
  /-- RELEASE, `release()` (R170) -/
  | release
deriving DecidableEq, Repr

/-- The 4-bit `op` of each operation (R82). -/
def Instr.opcode : Instr → BitVec 4
  | .init _ => 1
  | .reset => 2
  | .isEmpty => 3
  | .isFull => 4
  | .len => 5
  | .put _ => 6
  | .get _ => 7
  | .release => 8

/-- The `arg` a requester drives: the operand, or 0 where the block ignores it (R83). -/
def Instr.arg : Instr → Nat
  | .init c => c
  | .reset => 0
  | .isEmpty => 0
  | .isFull => 0
  | .len => 0
  | .put n => n
  | .get n => n
  | .release => 0

end Sys2Proof
end

