-- ==== Sys2Proof/WellFormed.lean ====
section
/-! DEFINITION. Static checks: the operand of an operation fits the field `arg` of its word (30_encoding.md R83); the
parameters of the block lie in the ranges of 00_scope.md R9; a command word has `W + 4` bits (R81). -/

namespace Sys2Proof

/-- An operation is well formed at width `W` when its `arg` is a number of `W` bits (R81, R83). -/
abbrev Instr.WellFormed (w : Nat) (i : Instr) : Prop := i.arg < 2 ^ w

/-- `W >= 32` (R9). -/
def Params.widthOk (p : Params) : Bool := decide (32 ≤ p.width)

/-- `MAX_CAPACITY <= 2^(W-1)` (R9). -/
def Params.capacityOk (p : Params) : Bool := decide (p.maxCapLog + 1 ≤ p.width)

/-- `N_REQ >= 1` (R9). -/
def Params.reqOk (p : Params) : Bool := decide (1 ≤ p.nReq)

/-- `SYNC_STAGES` is a positive number (R9, 92_eei_decisions.md). -/
def Params.stagesOk (p : Params) : Bool := decide (1 ≤ p.syncStages)

/-- The parameters lie in the ranges of R9. -/
def Params.wf (p : Params) : Bool := p.widthOk && p.capacityOk && p.reqOk && p.stagesOk

/-- A number is a command word when it has at most `W + 4` bits (R81). -/
def cmdWordOk (w n : Nat) : Bool := decide (n < 2 ^ (w + 4))

end Sys2Proof
end

