-- ==== Sys2Proof/Decode.lean ====
section
/-! DEFINITION. The decoder of command words, total and rejecting by name, and after it the encoder
(30_encoding.md R81 to R85, R89, R92), for any width `w` of the argument. -/

namespace Sys2Proof

/-- What a command word decodes to: one of the eight operations, or a reserved `op` (R85, R89). -/
inductive Decoded where
  | command (i : Instr)
  | reserved (op : BitVec 4)
deriving DecidableEq, Repr

/-- `op`, bits `W+3` to `W` (R81). -/
def opField (w word : Nat) : BitVec 4 := BitVec.ofNat 4 (word / 2 ^ w)

/-- `arg`, bits `W-1` to 0 (R81). -/
def argField (w word : Nat) : Nat := word % 2 ^ w

/-- `op` selects the operation, `arg` is taken as it stands or ignored (R82, R83). -/
def decodeFields (op : BitVec 4) (arg : Nat) : Decoded :=
  match op.toNat with
  | 1 => .command (.init arg)
  | 2 => .command .reset
  | 3 => .command .isEmpty
  | 4 => .command .isFull
  | 5 => .command .len
  | 6 => .command (.put arg)
  | 7 => .command (.get arg)
  | 8 => .command .release
  | _ => .reserved op

/-- Decoding is total (R89). -/
def decode (w word : Nat) : Decoded := decodeFields (opField w word) (argField w word)

/-- The instruction of a decoded word, if it is one. -/
def Decoded.instr? : Decoded → Option Instr
  | .command i => some i
  | .reserved _ => none

/-- The command word that the `W + 4` wires of `cmd_word` carry (R81, R182). -/
def wireWord (w word : Nat) : Nat := word % 2 ^ (w + 4)

/-- The word with these two fields (R92). -/
def joinFields (w : Nat) (op : BitVec 4) (arg : Nat) : Nat := op.toNat * 2 ^ w + arg

/-- The width the words of spec/opcode_table.json are given for (R92). -/
def tableWidth : Nat := 32

/-- The instruction the decoder reads from the table's bits `w`; a number that is no command word is rejected
(log 21). The port carries the word whole: it has no byte order (R54). -/
def decodeTableWord (nbits w : Nat) : Option Instr :=
  if cmdWordOk tableWidth (w % 2 ^ nbits) then (decode tableWidth (w % 2 ^ nbits)).instr? else none

/-- The table's word laid out for a block of width `w`: the same `op`, the same `arg` (R81, log 21). -/
def tableWord (w nbits n : Nat) : Nat :=
  joinFields w (opField tableWidth (n % 2 ^ nbits)) (argField tableWidth (n % 2 ^ nbits))

/-- `CW = (op << W) | arg` (R92). -/
def encode (w : Nat) (i : Instr) : Nat := joinFields w i.opcode i.arg

end Sys2Proof
end

