-- ==== Sys2Proof/Machine/State.lean ====
section
/-! DEFINITION. The state of the machine as plain data (10_state.md R20 to R40, 44_port_protocol.md R187,
45_async_option.md R213, R214), the reasons a step can stop, and the state after reset. -/

namespace Sys2Proof.Machine

/-- The lifecycle register `life` (R28). -/
inductive Life where
  | uninit
  | ready
  | released
  | fatal
deriving DecidableEq, Repr

/-- The grant register `lock` (R29). -/
inductive Lock where
  | free
  | held (r : Nat)
deriving DecidableEq, Repr

/-- The statuses the block produces (R87). Codes 6 and 7 do not exist here (U12). -/
inductive Status where
  | ok
  | allocationFailure
  | insufficientSpace
  | bufferEmpty
  | badState
  | illegalOp
deriving DecidableEq, Repr

/-- The answer to an operation: status, `val`, and the bytes of a GET (R15, R86, R156). -/
structure Response where
  status : Status
  val : Nat
  bytes : List Byte
deriving DecidableEq, Repr

/-- An issued operation: its command word and its data operand (R84, R140), which PUT uses. A command that comes over
the port carries none: there the bytes of a PUT are offered beat by beat (R146, R189). -/
structure Op where
  word : Nat
  data : Option (List Byte)
deriving DecidableEq, Repr

/-- What the block keeps of a requester: its operation in flight and how far it has progressed (R38, R66). -/
inductive Slot where
  /-- nothing in flight -/
  | idle
  /-- transaction level: issued, its effect still to come (R66) -/
  | issued (op : Op)
  /-- port level: `cmd_valid` is up with this word, not yet accepted (R183) -/
  | presented (word : Nat)
  /-- port level: it holds the lock; the bytes moved so far in its data phase, oldest first (R187 to R190) -/
  | executing (word : Nat) (moved : List Byte)
  /-- its effect has taken place; the response is not yet received (R66, R192) -/
  | answered (word : Nat) (rsp : Response)
  /-- the INIT that took the fatal fault: it is never answered, and its operand is not kept (R231, R232) -/
  | unanswered
deriving DecidableEq, Repr

/-- The sequencer's place inside a lock-taking command: check edge to come, or data phase (R188 to R190). -/
inductive Phase where
  | check
  | data
deriving DecidableEq, Repr

/-- One requester's input pins during a clock period (R182). -/
structure ReqIn where
  cmdValid : Bool
  cmdWord : Nat
  wdValid : Bool
  wdByte : Byte
  rdReady : Bool
deriving DecidableEq, Repr

/-- The inputs sampled at an edge of `clk` (R180 to R182): `rst`, each requester's pins in port order, and which of
the waiting requesters the arbiter takes (any of them may be next: R68, R187, log 12). -/
structure PortIn where
  rst : Bool
  grant : Nat
  reqs : List ReqIn
deriving DecidableEq, Repr

/-- One move of one agent (log 3). -/
inductive Event where
  /-- requester `r` issues an operation (R66) -/
  | issue (r : Nat) (word : Nat) (data : List Byte)
  /-- the operation of requester `r` is the next to take effect (R66, R68) -/
  | effect (r : Nat)
  /-- requester `r` receives its result (R66) -/
  | ret (r : Nat)
  /-- an edge of `clk` (R180) -/
  | edge (inp : PortIn)
  /-- an edge of `oclk`, with the reset input `orst` of that domain (R214, R219) -/
  | oedge (orst : Bool)
  /-- the remote observer reads `empty_o` and `full_o` (R218) -/
  | observe
deriving DecidableEq, Repr

/-- The registers of the gray-code option (R213, R214), with the model's bookkeeping: the value each gray register
held before its latest change that no `oclk` edge has followed, and the number of `oclk` edges since the last change
and since the last change that was no unit step (R216; log 18, 19). -/
structure AsyncRegs where
  wcG : Nat
  rcG : Nat
  wcGOld : Nat
  rcGOld : Nat
  wcChain : List Nat
  rcChain : List Nat
  sinceChange : Nat
  sinceJump : Nat
deriving DecidableEq, Repr

/-- The storage array: the bytes that have a value, addresses strictly rising. A byte that is not listed has no value
(R26, R60; log 8). -/
abbrev Memory := List Host.Cell

/-- The whole state (R20, R38), the port level's sequencer (R187), the registers of the option (R213, R214), the
parameters (R9, log 2), and three fields of the model's own: `script`, `turn` (log 3) and `draws` (log 17). -/
structure State where
  /-- the build parameters, which no step writes (R9) -/
  params : Params
  /-- write cursor (R21) -/
  wc : Nat
  /-- read cursor (R22) -/
  rc : Nat
  /-- capacity (R24) -/
  cap : Nat
  /-- storage array (R26) -/
  storage : Memory
  /-- lifecycle (R28) -/
  life : Life
  /-- lock (R29) -/
  lock : Lock
  /-- sticky fatal bit (R30) -/
  fatal : Bool
  /-- per requester, the operation in flight (R38); a requester the list does not reach is idle -/
  slots : List Slot
  /-- `cur_op` (R187) -/
  curOp : BitVec 4
  /-- `cur_arg` (R187) -/
  curArg : Nat
  /-- `cur_n` (R187, R188) -/
  curN : Nat
  /-- `beat` (R187) -/
  beat : Nat
  /-- check edge to come, or data phase (R188) -/
  phase : Phase
  /-- the registers of the gray-code option (R213, R214) -/
  async : AsyncRegs
  /-- what the remote observer's last read gave (R218) -/
  remoteSeen : Option (Bool × Bool)
  /-- the model's own: the agents' next moves, oldest first (log 3) -/
  script : List Event
  /-- the model's own: the requester whose operation takes effect (R39, log 3) -/
  turn : Nat
  /-- the model's own: counts draws of free values (log 17) -/
  draws : Nat
deriving DecidableEq, Repr

/-- Why the machine stops with a fault. -/
inductive Fault where
  /-- Raised by INIT and RELEASE at their effect when another requester has an operation in flight or the lock is
  held, by the issue of an operation while another requester's INIT or RELEASE is in flight, and by the issue of an INIT
  or a RELEASE while another requester has an operation in flight: undefined by the spec, to be treated as a fault
  (R67, R171, R245, R249, R270 H2, U2, U3). Safe (log 7). -/
  | notQuiescent
  /-- Raised by PUT and GET when an index lies outside the array of MAX_CAPACITY bytes (R26, R50). No run from reset
  reaches it. Safe (log 9). -/
  | noSuchByte
  /-- Raised by GET when it would read a byte without a value (R26, R60). No run from reset reaches it. Safe
  (log 8). -/
  | unspecifiedByte
  /-- Raised in FATAL by every effect of an operation and by every event but a hardware reset: FATAL is a fault state,
  of which nothing is claimed but that it was reached (R232, U20). Safe (log 6). -/
  | fatalState
deriving DecidableEq, Repr

/-- Why the machine declines to run an input. -/
inductive Refusal where
  /-- Raised by `exec` alone, for an instruction without a meaning. No arm uses it now. Safe. -/
  | notModelled (mnemonic : String)
  /-- Raised by PUT, at the transaction level, when its data has fewer bytes than its length (R146, R245, D31, U7), and
  by a PUT that would take bytes and carries no data operand. Safe (log 10). -/
  | shortData
  /-- Raised by the issue of a second command while one is in flight, and at the port by a command that is withdrawn
  or changed while waiting, or presented while one is in flight (R183, R184, U18). Safe (log 15). -/
  | portProtocol
  /-- Raised by an issue from a requester number that does not exist (R38, R182). Safe (log 24). -/
  | noSuchRequester
  /-- Raised by an event of the second clock domain when the option is not built (R210). Safe (log 20). -/
  | noSecondClock
deriving DecidableEq, Repr

/-- What a step or an operation answers. -/
abbrev Out := Host.Outcome State Fault Refusal

/-- The registers of the option after both resets (R219). -/
def AsyncRegs.atReset (stages : Nat) : AsyncRegs :=
  { wcG := 0, rcG := 0, wcGOld := 0, rcGOld := 0
    wcChain := List.replicate stages 0, rcChain := List.replicate stages 0
    sinceChange := 0, sinceJump := 0 }

/-- The machine right after hardware reset (R40, R219), with nothing issued. The sequencer's registers (log 14), the
parameters (log 2) and the model's own fields (log 3, 17, 28) stand at values the spec does not give. -/
def State.reset : State :=
  { params := Config.params
    wc := 0, rc := 0, cap := 0, storage := [], life := .uninit, lock := .free, fatal := false, slots := []
    curOp := 0, curArg := 0, curN := 0, beat := 0, phase := .check
    async := AsyncRegs.atReset Config.params.syncStages
    remoteSeen := none, script := [], turn := 0, draws := 0 }

end Sys2Proof.Machine
end

