-- ==== Sys2Proof/Machine/Gray.lean ====
section
/-! DEFINITION. Gray code and the registers the `clk` domain exports (45_async_option.md R211 to R213). -/

namespace Sys2Proof.Machine

/-- `gray(b) = b ^ (b >> 1)` (R211). -/
def gray (b : Nat) : Nat := b ^^^ (b >>> 1)

/-- Bit `i` of `ungray(g)` is the exclusive OR of `g[W-1], .., g[i]` (R212): the exclusive OR of all right shifts of a
`w`-bit value. -/
def ungray (w g : Nat) : Nat := (List.range w).foldl (fun acc k => acc ^^^ (g >>> k)) 0

/-- The option's registers at a commit that takes the cursors from `(wc, rc)` to `(wc', rc')`: the gray registers take
the code of the new values at the same edge (R213); a register that changes keeps its old value beside it (log 18);
the window of R216 starts anew when `wc`, `rc` or `cap` changes. `unit` says that the commit is a unit step: that of a
PUT of one byte, or of a GET of one byte that does not empty the buffer (R216 b; log 19). -/
def AsyncRegs.follow (a : AsyncRegs) (wc rc wc' rc' : Nat) (capChanged unit : Bool) : AsyncRegs :=
  let same := wc' == wc && rc' == rc && !capChanged
  { a with
    wcG := gray wc'
    rcG := gray rc'
    wcGOld := if wc' == wc then a.wcGOld else a.wcG
    rcGOld := if rc' == rc then a.rcGOld else a.rcG
    sinceChange := if same then a.sinceChange else 0
    sinceJump := if same || unit then a.sinceJump else 0 }

/-- The option's registers after a commit; without the option they do not exist and stay as they are (R9, R210). -/
def exported (p : Params) (a : AsyncRegs) (wc rc wc' rc' : Nat) (capChanged unit : Bool) : AsyncRegs :=
  if p.asyncFlags then a.follow wc rc wc' rc' capChanged unit else a

end Sys2Proof.Machine
end

