-- ==== Sys2Proof/Machine/Flags.lean ====
section
/-! DEFINITION. The flags and the occupancy comparator (10_state.md R25, R31, R32), the capacity check
(40_init_reset.md R101) and the response codes (30_encoding.md R86, R87). All arithmetic is modulo `2^W` (R11). -/

namespace Sys2Proof.Machine

/-- `MASK = cap - 1` (R25). -/
def State.mask (s : State) : Nat := wsub s.params.width s.cap 1

/-- The occupancy `wc - rc` (R32). -/
def State.occ (s : State) : Nat := wsub s.params.width s.wc s.rc

/-- The free space `cap - occ` (R32, R124). -/
def State.avail (s : State) : Nat := wsub s.params.width s.cap s.occ

/-- The flag `empty` (R31). -/
def State.empty (s : State) : Bool := s.wc == s.rc

/-- The flag `full` (R31). -/
def State.full (s : State) : Bool := s.occ == s.cap

/-- `no_space(length)`: `avail < length` (R32, R141). -/
def State.noSpace (s : State) (length : Nat) : Bool := decide (s.avail < length)

/-- `clamp_put(length) = min(length, cap - occ)` (R32, R142). -/
def State.clampPut (s : State) (length : Nat) : Nat := min length s.avail

/-- `clamp_get(req) = min(req, wc - rc)` (R32, R152). -/
def State.clampGet (s : State) (req : Nat) : Nat := min req s.occ

/-- `is_pow2(c)`: true exactly for `c = 2^k`, `0 <= k <= W - 1` (R101). -/
def isPow2 (w c : Nat) : Bool := (List.range w).any fun k => c == 2 ^ k

/-- The result of a query: 1 or 0 (R88). -/
def boolVal (b : Bool) : Nat := if b then 1 else 0

/-- The 2-bit code of `life` (R28). -/
def Life.code : Life → BitVec 2
  | .uninit => 0
  | .ready => 1
  | .released => 2
  | .fatal => 3

/-- The 3-bit status codes (R87). -/
def Status.code : Status → BitVec 3
  | .ok => 0
  | .allocationFailure => 1
  | .insufficientSpace => 2
  | .bufferEmpty => 3
  | .badState => 4
  | .illegalOp => 5

/-- The response word `RW = (status << W) | val` (R86, R92). -/
def Response.word (w : Nat) (r : Response) : Nat := r.status.code.toNat * 2 ^ w + r.val

end Sys2Proof.Machine
end

