-- ==== Sys2Proof/Machine/Operands.lean ====
section
/-! DEFINITION. Where operations find their operands: the requesters' slots, the command word in flight, the data bytes
of a PUT (10_state.md R38, 30_encoding.md R84), and the index of a byte (R25, R51). -/

namespace Sys2Proof.Machine

/-- The slot of requester `r`; a requester the list does not reach is idle. -/
def slotAt : List Slot → Nat → Slot
  | [], _ => .idle
  | x :: _, 0 => x
  | _ :: xs, r + 1 => slotAt xs r

/-- The slots with that of requester `r` replaced. -/
def setSlot : List Slot → Nat → Slot → List Slot
  | [], 0, x => [x]
  | [], r + 1, x => .idle :: setSlot [] r x
  | _ :: xs, 0, x => x :: xs
  | y :: xs, r + 1, x => y :: setSlot xs r x

/-- What the block keeps of requester `r` (R38). -/
def State.slot (s : State) (r : Nat) : Slot := slotAt s.slots r

/-- Whether some requester other than `r` has a slot with property `p`. -/
def anyOther (p : Slot → Bool) : Nat → List Slot → Bool
  | _, [] => false
  | 0, _ :: xs => xs.any p
  | r + 1, x :: xs => p x || anyOther p r xs

/-- The command word a slot holds, if an operation is in flight that keeps one. -/
def Slot.word? : Slot → Option Nat
  | .idle => none
  | .issued op => some op.word
  | .presented w => some w
  | .executing w _ => some w
  | .answered w _ => some w
  | .unanswered => none

/-- The command word of requester `r`'s operation in flight (zero when there is none). -/
def State.slotWord (s : State) (r : Nat) : Nat := ((s.slot r).word?).getD 0

/-- The data operand of the operation that takes effect, if it carries one (R84, R140). -/
def State.operandData (s : State) : Option (List Byte) :=
  match s.slot s.turn with
  | .issued op => op.data
  | _ => none

/-- The operation that takes effect carries data of fewer bytes than `length` (R146). -/
def State.shortData (s : State) (length : Nat) : Bool :=
  match s.operandData with
  | some bs => decide (bs.length < length)
  | none => false

/-- Whether the operation of a word needs quiescence: INIT and RELEASE (R67). -/
def wordNeedsQuiet (w word : Nat) : Bool :=
  match decode w word with
  | .command (.init _) => true
  | .command .release => true
  | _ => false

/-- Whether a slot holds an INIT or a RELEASE in flight (R67). -/
def Slot.needsQuiet (w : Nat) : Slot → Bool
  | .unanswered => true
  | x => match x.word? with
    | some word => wordNeedsQuiet w word
    | none => false

/-- No requester but `r` has an operation in flight (R67). -/
def State.othersIdle (s : State) (r : Nat) : Bool := !anyOther (fun x => decide (x ≠ .idle)) r s.slots

/-- Quiescence at the effect of requester `r`'s INIT or RELEASE (R67). -/
def State.quiescent (s : State) (r : Nat) : Bool := s.othersIdle r && decide (s.lock = .free)

/-- The issue of a word by requester `r` breaks duty H2 of R270: another requester's INIT or RELEASE is in flight, or
the word is an INIT or a RELEASE and another requester has an operation in flight (U2, U3; log 7). -/
def State.quietBreach (s : State) (r word : Nat) : Bool :=
  anyOther (Slot.needsQuiet s.params.width) r s.slots || (wordNeedsQuiet s.params.width word && !s.othersIdle r)

/-- The index `(cursor + i) & MASK` of byte `i` of a sequence at a cursor (R14, R25, R51). -/
def cellIndex (w mask cursor i : Nat) : Nat := wadd w cursor i &&& mask

end Sys2Proof.Machine
end

