-- ==== Sys2Proof/Machine/Ops.lean ====
section
/-! DEFINITION. The shared operations: storage (00_scope.md R14, 20_memory.md), the cursors' commit, the lock (R62),
the answer (R243), the fatal fault (R232) and the hardware reset that alone leaves it (R244, R260). -/

namespace Sys2Proof.Machine

/-! ### Storage -/

/-- The canonical form of the storage list: addresses strictly rising. -/
def Memory.wf : Memory → Bool
  | [] => true
  | [_] => true
  | (a, _) :: (b, y) :: m => decide (a < b) && Memory.wf ((b, y) :: m)

/-- Every listed address lies in the array of `limit` bytes (R26). -/
def Memory.within (limit : Nat) (m : Memory) : Bool := m.all fun c => decide (c.1 < limit)

/-- Byte `i` of storage; none when it has no value (R26, log 8). -/
def Memory.read : Memory → Nat → Option Byte
  | [], _ => none
  | (a, b) :: m, i => if i = a then some b else Memory.read m i

/-- Storage with byte `i` set. -/
def Memory.write : Memory → Nat → Byte → Memory
  | [], i, x => [(i, x)]
  | (a, b) :: m, i, x =>
    if i = a then (i, x) :: m
    else if i < a then (i, x) :: (a, b) :: m
    else (a, b) :: Memory.write m i x

/-- The byte at an index (R51). An index outside the array does not exist (log 9); a byte without a value cannot be
read (R60, log 8). -/
def byteAt (limit index : Nat) (m : Memory) : Except Fault Byte :=
  if index < limit then
    match m.read index with
    | some b => .ok b
    | none => .error .unspecifiedByte
  else .error .noSuchByte

/-- Storage with the byte at an index set (R51). -/
def storeAt (limit index : Nat) (b : Byte) (m : Memory) : Except Fault Memory :=
  if index < limit then .ok (m.write index b) else .error .noSuchByte

/-- `MemWrite` from byte `i` of the sequence on: byte `i` goes to `(cursor + i) & MASK`, the sum modulo `2^w` (R14,
R56, R143). -/
def memWrite (w limit mask cursor : Nat) : Nat → List Byte → Memory → Except Fault Memory
  | _, [], m => .ok m
  | i, b :: bs, m =>
    match storeAt limit (cellIndex w mask cursor i) b m with
    | .ok m' => memWrite w limit mask cursor (i + 1) bs m'
    | .error f => .error f

/-- `MemRead` of `n` bytes from byte `i` of the sequence on: byte `i` is `storage[(cursor + i) & MASK]` (R14, R56,
R153). -/
def memRead (w limit mask cursor : Nat) (m : Memory) : Nat → Nat → Except Fault (List Byte)
  | _, 0 => .ok []
  | i, n + 1 =>
    match byteAt limit (cellIndex w mask cursor i) m with
    | .error f => .error f
    | .ok b =>
      match memRead w limit mask cursor m (i + 1) n with
      | .error f => .error f
      | .ok bs => .ok (b :: bs)

/-! ### Commits -/

/-- One commit of both cursors (R13, R57), with the exported copies of the option (R213). -/
def State.commitCursors (s : State) (wc' rc' : Nat) (unit : Bool) : State :=
  { s with wc := wc', rc := rc', async := exported s.params s.async s.wc s.rc wc' rc' false unit }

/-- `wc <- wc + n` (R144). -/
def State.advanceWc (s : State) (n : Nat) : State :=
  s.commitCursors (wadd s.params.width s.wc n) s.rc (n == 1)

/-- GET's commit: `rc <- rc + n`, or both cursors to 0 when it has taken everything (R154, R155). -/
def State.advanceRc (s : State) (n : Nat) : State :=
  if wadd s.params.width s.rc n = s.wc then s.commitCursors 0 0 false
  else s.commitCursors s.wc (wadd s.params.width s.rc n) (n == 1)

/-- INIT's commit (R103). The contents of storage are unspecified from here on (R26, R40, log 8). -/
def State.initCommit (s : State) (capacity : Nat) : State :=
  { s with
    cap := capacity, wc := 0, rc := 0, lock := .free, life := .ready, storage := []
    async := exported s.params s.async s.wc s.rc 0 0 (capacity != s.cap) false }

/-- RELEASE's commit: `life` only; the contents of storage become unspecified (R170, R40, log 8). -/
def State.releaseCommit (s : State) : State := { s with life := .released, storage := [] }

/-! ### The lock -/

/-- `lock <- HELD(r)` (R62). -/
def State.acquire (s : State) (r : Nat) : State := { s with lock := .held r }

/-- `lock <- FREE` (R62). -/
def State.releaseLock (s : State) : State := { s with lock := .free }

/-! ### Ending an operation -/

/-- The operation of requester `r` ends with a response (R15, R243): the runtime conditions and the refusals of the
spec are this and nothing else (R239). -/
def State.answer (s : State) (r : Nat) (st : Status) (val : Nat) (bytes : List Byte) : State :=
  { s with slots := setSlot s.slots r (.answered (s.slotWord r) ⟨st, val, bytes⟩) }

/-- TAKING THE FATAL FAULT (R232): `life` and `fatal` are written, nothing else of the block; the INIT of requester
`r` is never answered, and its operand is not kept (R231). -/
def State.raiseFatal (s : State) (r : Nat) : State :=
  { s with life := .fatal, fatal := true, slots := setSlot s.slots r (.unanswered) }

/-- HARDWARE RESET, the only way out of FATAL (R40, R244, R260): the column 'after hardware reset' of R40, every
operation in flight abandoned. Registers that column does not name stay as they are (log 29). -/
def State.hardwareReset (s : State) : State :=
  { s with
    wc := 0, rc := 0, cap := 0, storage := [], life := .uninit, lock := .free, fatal := false, slots := []
    async := exported s.params s.async s.wc s.rc 0 0 (s.cap != 0) false }

/-- One draw of free values is used up (log 17). -/
def State.drawn (s : State) : State := { s with draws := s.draws + 1 }

/-! ### The gates every operation passes -/

/-- FATAL is a fault state: nothing but the hardware reset runs in it (R232, R244, U20; log 6). -/
def unlessFatal (body : State → Out) (s : State) : Out :=
  if s.life = .fatal then .fault .fatalState else body s

/-- The lifecycle gate (R232, R236, R242): nothing in FATAL; outside READY the operation is answered BAD_STATE; in
READY it goes on. -/
def whenReady (badVal : Nat) (body : State → Out) (s : State) : Out :=
  match s.life with
  | .fatal => .fault .fatalState
  | .ready => body s
  | .uninit => .next (s.answer s.turn .badState badVal [])
  | .released => .next (s.answer s.turn .badState badVal [])

/-- The gate of the lock-taking operations: after the lifecycle check, `acquire` (R62, R63). While the lock is held
the operation waits and nothing changes (R62, R70, log 11). -/
def underLock (badVal : Nat) (body : State → Out) (s : State) : Out :=
  whenReady badVal
    (fun s => match s.lock with
      | .free => body (s.acquire s.turn)
      | .held _ => .next s) s

end Sys2Proof.Machine
end

