-- ==== Sys2Proof/Machine/Lifecycle.lean ====
section
/-! DEFINITION. INIT, RESET (40_init_reset.md) and RELEASE (43_release.md). -/

namespace Sys2Proof.Machine

/-- INIT outside FATAL (R100): it needs quiescence (R67, R105); then the checks in the order of R242: lifecycle (R104),
precondition (R101), allocation (R102), success (R103). -/
def initBody (capacity : Nat) (s : State) : Out :=
  if !s.quiescent s.turn then .fault .notQuiescent
  else if s.life = .ready then .next (s.answer s.turn .badState 0 [])
  else if !isPow2 s.params.width capacity then .next (s.raiseFatal s.turn)
  else if s.params.maxCapacity < capacity then .next (s.answer s.turn .allocationFailure 0 [])
  else .next ((s.initCommit capacity).answer s.turn .ok capacity [])

/-- INIT (R100 to R105). -/
def execInit (capacity : Nat) (s : State) : Out := unlessFatal (initBody capacity) s

/-- RESET under the lock (R106): both cursors to zero in one commit, the lock given back. -/
def resetDone (r : Nat) (s : State) : State := ((s.commitCursors 0 0 false).answer r .ok 0 []).releaseLock

/-- RESET (R106 to R108). -/
def execReset (s : State) : Out := underLock 0 (fun s => .next (resetDone s.turn s)) s

/-- RELEASE (R170 to R174): needs quiescence (R67, R171), does not take the lock. -/
def execRelease (s : State) : Out :=
  unlessFatal
    (fun s =>
      if !s.quiescent s.turn then .fault .notQuiescent
      else whenReady 0 (fun s => .next (s.releaseCommit.answer s.turn .ok 0 [])) s) s

end Sys2Proof.Machine
end

