-- ==== Sys2Proof/Machine/Queries.lean ====
section
/-! DEFINITION. IS_EMPTY, IS_FULL and LEN (41_queries.md). -/

namespace Sys2Proof.Machine

/-- IS_EMPTY (R120): the flag `empty`, read at one instant without the lock. -/
def execIsEmpty (s : State) : Out :=
  whenReady 0 (fun s => .next (s.answer s.turn .ok (boolVal s.empty) [])) s

/-- IS_FULL (R121): the flag `full`, read at one instant without the lock. -/
def execIsFull (s : State) : Out :=
  whenReady 0 (fun s => .next (s.answer s.turn .ok (boolVal s.full) [])) s

/-- LEN under the lock (R123): the occupancy, the lock given back. -/
def lenDone (r : Nat) (s : State) : State := (s.answer r .ok s.occ []).releaseLock

/-- LEN (R123). -/
def execLen (s : State) : Out := underLock 0 (fun s => .next (lenDone s.turn s)) s

end Sys2Proof.Machine
end

