-- ==== Sys2Proof/Machine/Transfer.lean ====
section
/-! DEFINITION. PUT and GET (42_put_get.md). The endings are shared with the port level's sequencer. -/

namespace Sys2Proof.Machine

/-- A rejected PUT (R141, R145): nothing written, the lock given back. -/
def putRejected (r : Nat) (s : State) : State := (s.answer r .insufficientSpace 0 []).releaseLock

/-- A PUT whose `n` bytes are in storage (R144, R145): one commit of `wc`, the lock given back. -/
def putDone (r : Nat) (n : Nat) (s : State) : State := ((s.advanceWc n).answer r .ok n []).releaseLock

/-- PUT under the lock (R140): the space check is all-or-nothing (R141); the clamp (R142) changes nothing; the bytes
are stored before the cursor moves (R143, R144). A PUT that carries no data operand has no bytes to store (log 10). -/
def putBody (length : Nat) (s : State) : Out :=
  if s.noSpace length then .next (putRejected s.turn s)
  else if (s.operandData.getD []).length < length then .refused .shortData
  else
    match memWrite s.params.width s.params.maxCapacity s.mask s.wc 0
        ((s.operandData.getD []).take (s.clampPut length)) s.storage with
    | .error f => .fault f
    | .ok m => .next (putDone s.turn (s.clampPut length) { s with storage := m })

/-- PUT (R140 to R148). One whose data has fewer bytes than its length has no meaning, whatever the buffer holds (R146,
R245). -/
def execPut (length : Nat) (s : State) : Out :=
  unlessFatal (fun s => if s.shortData length then .refused .shortData else underLock 0 (putBody length) s) s

/-- A GET on an empty buffer (R151, R156): nothing consumed, the requested length echoed, the lock given back. -/
def getRejected (r : Nat) (req : Nat) (s : State) : State := (s.answer r .bufferEmpty req []).releaseLock

/-- A GET that has read its `n` bytes (R154 to R156): one commit of the cursors, the lock given back. -/
def getDone (r : Nat) (n : Nat) (out : List Byte) (s : State) : State :=
  ((s.advanceRc n).answer r .ok n out).releaseLock

/-- GET under the lock (R150): the empty check (R151) comes before the clamp (R152); then the copy (R153). -/
def getBody (req : Nat) (s : State) : Out :=
  if s.empty then .next (getRejected s.turn req s)
  else
    match memRead s.params.width s.params.maxCapacity s.mask s.rc s.storage 0 (s.clampGet req) with
    | .error f => .fault f
    | .ok out => .next (getDone s.turn (s.clampGet req) out s)

/-- GET (R150 to R159): outside READY the requested length is echoed (R159). -/
def execGet (req : Nat) (s : State) : Out := underLock req (getBody req) s

end Sys2Proof.Machine
end

