-- ==== Sys2Proof/Machine/Dispatch.lean ====
section
/-! DEFINITION. The one dispatch: each operation of the table to its meaning. `exec i s` is the effect (R66) of `i` as
the operation of requester `s.turn`. -/

namespace Sys2Proof.Machine

def exec (i : Instr) (s : State) : Host.Outcome State Fault Refusal :=
  match i with
  | .init capacity => Sys2Proof.Machine.execInit capacity s
  | .reset => Sys2Proof.Machine.execReset s
  | .isEmpty => Sys2Proof.Machine.execIsEmpty s
  | .isFull => Sys2Proof.Machine.execIsFull s
  | .len => Sys2Proof.Machine.execLen s
  | .put length => Sys2Proof.Machine.execPut length s
  | .get req => Sys2Proof.Machine.execGet req s
  | .release => Sys2Proof.Machine.execRelease s

end Sys2Proof.Machine
end

