-- ==== Sys2Proof/Machine/Serve.lean ====
section
/-! DEFINITION. The effect of the issued operation of the requester whose turn it is (20_memory.md R66): fetch its
word, decode, execute. -/

namespace Sys2Proof.Machine

/-- The command word whose effect is next: that of the operation requester `s.turn` has issued (R66). -/
def State.fetchWord (s : State) : Option Nat :=
  match s.slot s.turn with
  | .issued op => some op.word
  | _ => none

/-- A reserved `op` (R85, R237): answered ILLEGAL_OP with nothing changed. -/
def illegalOp (s : State) : Out := unlessFatal (fun s => .next (s.answer s.turn .illegalOp 0 [])) s

/-- The effect of the next operation (R66); nothing happens when there is none. -/
def serve (s : State) : Out :=
  unlessFatal
    (fun s =>
      match s.fetchWord with
      | none => .next s
      | some w =>
        match decode s.params.width w with
        | .command i => exec i s
        | .reserved _ => illegalOp s) s

end Sys2Proof.Machine
end

