-- ==== Sys2Proof/Machine/Port.lean ====
section
/-! DEFINITION. The port level (44_port_protocol.md): what an edge of `clk` does, and the output pins as functions of
the state and the inputs. It takes the reference timing of R197 (log 13). -/

namespace Sys2Proof.Machine

/-- Input pins at rest (R195). -/
def ReqIn.rest : ReqIn := { cmdValid := false, cmdWord := 0, wdValid := false, wdByte := 0, rdReady := false }

/-- The input pins of requester `r`; pins the record does not reach are 0 (log 24). -/
def PortIn.req (inp : PortIn) (r : Nat) : ReqIn := inp.reqs.getD r ReqIn.rest

/-- What a requester's `cmd_valid` and `cmd_word` make of its slot at an edge: a waiting command is held unchanged
(R183), a requester with a command in flight presents none (R184), a response has been captured (R183, R192). None
when the protocol is broken (U18, log 15). -/
def sampleSlot (w : Nat) (q : ReqIn) (x : Slot) : Option Slot :=
  match x with
  | .idle => if q.cmdValid then some (.presented (wireWord w q.cmdWord)) else some .idle
  | .presented word => if q.cmdValid && wireWord w q.cmdWord == word then some (.presented word) else none
  | .answered _ _ => if q.cmdValid then none else some .idle
  | .issued op => if q.cmdValid then none else some (.issued op)
  | .executing word moved => if q.cmdValid then none else some (.executing word moved)
  | .unanswered => if q.cmdValid then none else some .unanswered

/-- The slots of the first `n` requesters after sampling. -/
def sampleSlots (w : Nat) : Nat → List ReqIn → List Slot → Option (List Slot)
  | 0, _, _ => some []
  | n + 1, qs, xs =>
    match sampleSlot w (qs.headD ReqIn.rest) (xs.headD .idle), sampleSlots w n qs.tail xs.tail with
    | some y, some ys => some (y :: ys)
    | _, _ => none

/-- Some requester begins to present a command against duty H2 of R270 (log 7, log 27). -/
def portBreach (inp : PortIn) (s : State) : Bool :=
  (List.range s.params.nReq).any fun r =>
    decide (s.slot r = .idle) && (inp.req r).cmdValid && s.quietBreach r (inp.req r).cmdWord

/-- The class of a command at the port: lock-taking if READY and RESET, LEN, PUT or GET; else immediate (R185). -/
def lockTaking (w : Nat) (life : Life) (word : Nat) : Bool :=
  decide (life = .ready) &&
    match decode w word with
    | .command .reset => true
    | .command .len => true
    | .command (.put _) => true
    | .command (.get _) => true
    | _ => false

/-- Requester `r`'s immediate command, if it presents one, is accepted: its whole effect is this edge (R186). `life`
is the value from before the edge (R185). -/
def acceptImmediate (life : Life) (r : Nat) (s : State) : Out :=
  match s.slot r with
  | .presented w =>
    if lockTaking s.params.width life w then .next s
    else serve { s with slots := setSlot s.slots r (.issued ⟨w, none⟩), turn := r }
  | _ => .next s

/-- All immediate commands presented at an edge are accepted at it (R186). Those that read see the values from before
the edge: none of them writes but INIT and RELEASE, which come alone (R67, R196). -/
def acceptImmediates (life : Life) : List Nat → State → Out
  | [], s => .next s
  | r :: rs, s =>
    match acceptImmediate life r s with
    | .next s' => acceptImmediates life rs s'
    | .fault f => .fault f
    | .refused f => .refused f

/-- Requester `r` presents a command at the edge with these inputs: it begins to, or it has been waiting. -/
def presents (inp : PortIn) (s : State) (r : Nat) : Bool :=
  (inp.req r).cmdValid &&
    match s.slot r with
    | .idle => true
    | .presented _ => true
    | _ => false

/-- The requesters waiting for the lock: those presenting a lock-taking command (R187). -/
def waiting (inp : PortIn) (s : State) : List Nat :=
  (List.range s.params.nReq).filter fun r => presents inp s r && lockTaking s.params.width s.life (inp.req r).cmdWord

/-- The arbiter takes one of the waiting requesters; any of them may be the one (R68, R187, U1, log 12). -/
def pick (rs : List Nat) (k : Nat) : Option Nat :=
  match rs with
  | [] => none
  | [r] => some r
  | r :: r' :: rest => (r :: r' :: rest)[k % (rest.length + 2)]?

/-- Whom the arbiter grants at an edge, if the lock is free before it (R187). -/
def grantee (inp : PortIn) (s : State) : Option Nat :=
  match s.lock with
  | .free => pick (waiting inp s) inp.grant
  | .held _ => none

/-- The grant edge (R187): the lock, the sequencer's registers, the beat counter. -/
def grantEdge (g word : Nat) (s : State) : State :=
  { s with
    lock := .held g, curOp := opField s.params.width word, curArg := argField s.params.width word, beat := 0
    phase := .check, slots := setSlot s.slots g (.executing (wireWord s.params.width word) []) }

/-- The operation the sequencer holds in `cur_op` and `cur_arg` (R187). -/
def State.curCommand (s : State) : Decoded := decodeFields s.curOp s.curArg

/-- The effective length is latched in `cur_n` (R188). -/
def State.latchN (s : State) (n : Nat) : State := { s with curN := n }

/-- The data phase begins (R188). -/
def State.beginData (s : State) : State := { s with phase := .data }

/-- The check edge (R188, R191): the effective length is latched; an operation without a data phase completes here. -/
def checkEdge (g : Nat) (s : State) : Out :=
  match s.curCommand with
  | .command .reset => .next (resetDone g s)
  | .command .len => .next (lenDone g s)
  | .command (.put n) =>
    if s.noSpace n then .next (putRejected g (s.latchN n))
    else if n = 0 then .next (putDone g 0 (s.latchN n))
    else .next (s.latchN n).beginData
  | .command (.get req) =>
    if s.empty then .next (getRejected g req (s.latchN (s.clampGet req)))
    else if s.clampGet req = 0 then .next (getDone g 0 [] (s.latchN (s.clampGet req)))
    else .next (s.latchN (s.clampGet req)).beginData
  | _ => .next s

/-- The bytes the data phase has moved so far (R38). -/
def State.moved (s : State) (g : Nat) : List Byte :=
  match s.slot g with
  | .executing _ bs => bs
  | _ => []

/-- One beat has moved byte `b` (R189, R190). -/
def State.beatDone (s : State) (g : Nat) (b : Byte) : State :=
  { s with
    beat := wadd s.params.width s.beat 1
    slots := setSlot s.slots g (.executing (s.slotWord g) (s.moved g ++ [b])) }

/-- The beat is that of the last byte, `cur_n - 1` (R189, R190). -/
def State.lastBeat (s : State) : Bool := s.beat == wsub s.params.width s.curN 1

/-- An edge of PUT's data phase with byte `b` offered (R189): the byte is stored at `(wc + beat) & MASK`; the edge that
takes byte `cur_n - 1` is the completion edge. -/
def putBeat (g : Nat) (b : Byte) (s : State) : Out :=
  match storeAt s.params.maxCapacity (cellIndex s.params.width s.mask s.wc s.beat) b s.storage with
  | .error f => .fault f
  | .ok m =>
    if s.lastBeat then .next (putDone g s.curN ({ s with storage := m }.beatDone g b))
    else .next ({ s with storage := m }.beatDone g b)

/-- An edge of GET's data phase with the byte taken (R190): the byte is `storage[(rc + beat) & MASK]`; the edge that
takes byte `cur_n - 1` is the completion edge. -/
def getBeat (g : Nat) (s : State) : Out :=
  match byteAt s.params.maxCapacity (cellIndex s.params.width s.mask s.rc s.beat) s.storage with
  | .error f => .fault f
  | .ok b =>
    if s.lastBeat then .next (getDone g s.curN (s.moved g ++ [b]) (s.beatDone g b))
    else .next (s.beatDone g b)

/-- An edge of the data phase: without the requester's byte, or its readiness, the operation waits (R189, R190). -/
def dataEdge (q : ReqIn) (g : Nat) (s : State) : Out :=
  match s.curCommand with
  | .command (.put _) => if q.wdValid then putBeat g q.wdByte s else .next s
  | .command (.get _) => if q.rdReady then getBeat g s else .next s
  | _ => .next s

/-- What the sequencer does at an edge while requester `g` holds the lock (R188 to R191). -/
def sequencerEdge (inp : PortIn) (g : Nat) (s : State) : Out :=
  match s.phase with
  | .check => checkEdge g s
  | .data => dataEdge (inp.req g) g s

/-- The lock's part of an edge: a grant, or the holder's sequencer. `before` is the state before the edge, `s` the
state after the immediate commands, which differ in nothing the sequencer reads (R196). -/
def lockEdge (inp : PortIn) (before s : State) : Out :=
  match before.lock with
  | .held g => sequencerEdge inp g s
  | .free =>
    match grantee inp before with
    | none => .next s
    | some g => .next (grantEdge g (inp.req g).cmdWord s)

/-- The end of an edge: the model's `turn` is as before, and the free pins are drawn anew (log 17). -/
def endEdge (before : State) : Out → Out
  | .next s => .next { s with turn := before.turn, draws := before.draws + 1 }
  | .fault f => .fault f
  | .refused f => .refused f

/-- An edge of `clk` with `rst = 0` outside FATAL (R183 to R191). -/
def runningEdge (inp : PortIn) (s : State) : Out :=
  match sampleSlots s.params.width s.params.nReq inp.reqs s.slots with
  | none => .refused .portProtocol
  | some xs =>
    if portBreach inp s then .fault .notQuiescent
    else
      match acceptImmediates s.life (List.range s.params.nReq) { s with slots := xs } with
      | .next s' => lockEdge inp s s'
      | .fault f => .fault f
      | .refused f => .refused f

/-- An edge of `clk` (R180): with `rst = 1` the hardware reset (R181, R260), the one event that leaves FATAL (R232,
R244). -/
def clkEdge (inp : PortIn) (s : State) : Out :=
  if inp.rst then .next s.hardwareReset.drawn
  else unlessFatal (fun s => endEdge s (runningEdge inp s)) s

/-! ### Output pins (R182) -/

/-- The block is running: not in reset, not FATAL (R194, R195). -/
def running (inp : PortIn) (s : State) : Bool := !inp.rst && decide (s.life ≠ .fatal)

/-- `cmd_ready[r]` (R185 to R187, R195). -/
def cmdReady (inp : PortIn) (s : State) (r : Nat) : Bool :=
  running inp s && decide (r < s.params.nReq) && presents inp s r &&
    (if lockTaking s.params.width s.life (inp.req r).cmdWord then decide (grantee inp s = some r) else true)

/-- Requester `r` is in the data phase of a PUT. -/
def inPutData (s : State) (r : Nat) : Bool :=
  decide (s.lock = .held r) && decide (s.phase = .data) &&
    match s.curCommand with
    | .command (.put _) => true
    | _ => false

/-- Requester `r` is in the data phase of a GET. -/
def inGetData (s : State) (r : Nat) : Bool :=
  decide (s.lock = .held r) && decide (s.phase = .data) &&
    match s.curCommand with
    | .command (.get _) => true
    | _ => false

/-- `wd_ready[r]` (R189). -/
def wdReady (inp : PortIn) (s : State) (r : Nat) : Bool := running inp s && inPutData s r

/-- `rd_valid[r]` (R190). -/
def rdValid (inp : PortIn) (s : State) (r : Nat) : Bool := running inp s && inGetData s r

/-- `rd_byte[r]`: a combinational read of the array (R190); 0 while `rst` is 1, else unspecified while `rd_valid[r]` is
0 (R195, log 16). -/
def rdByte (inp : PortIn) (s : State) (r : Nat) : Byte :=
  if inp.rst then 0
  else if rdValid inp s r then
    match byteAt s.params.maxCapacity (cellIndex s.params.width s.mask s.rc s.beat) s.storage with
    | .ok b => b
    | .error _ => Config.freeByte s.draws r
  else Config.freeByte s.draws r

/-- `rsp_valid[r]` (R192, R194, R195). -/
def rspValid (inp : PortIn) (s : State) (r : Nat) : Bool :=
  running inp s &&
    match s.slot r with
    | .answered _ _ => true
    | _ => false

/-- `rsp_word[r]` (R192): any `W + 3` bits while `rsp_valid[r]` is 0 (log 16). -/
def rspWord (inp : PortIn) (s : State) (r : Nat) : Nat :=
  if rspValid inp s r then
    match s.slot r with
    | .answered _ rsp => rsp.word s.params.width
    | _ => Config.freeRsp s.draws r % 2 ^ (s.params.width + 3)
  else Config.freeRsp s.draws r % 2 ^ (s.params.width + 3)

/-- The pin `empty` (R193): unspecified outside READY (R31, U6, log 16). -/
def emptyPin (s : State) : Bool := if s.life = .ready then s.empty else Config.freeBit s.draws 0

/-- The pin `full` (R193): unspecified outside READY (R31, U6, log 16). -/
def fullPin (s : State) : Bool := if s.life = .ready then s.full else Config.freeBit s.draws 1

/-- The pin `fatal` (R30, R194). -/
def fatalPin (s : State) : Bool := s.fatal

end Sys2Proof.Machine
end

