-- ==== Sys2Proof/Machine/RemoteFlags.lean ====
section
/-! DEFINITION. The second clock domain of the gray-code option (45_async_option.md R214 to R219). -/

namespace Sys2Proof.Machine

/-- A flip-flop whose input changes close to its edge captures, for each bit, the old value (where `free` has a 1) or
the new one (R214). -/
def captured (free old new : Nat) : Nat := new ^^^ (free &&& (old ^^^ new))

/-- A chain of flip-flops takes `x` in and drops its last value. -/
def shiftIn (x : Nat) (chain : List Nat) : List Nat := (x :: chain).take chain.length

/-- The last stage of a chain (R214). -/
def lastStage (chain : List Nat) : Nat := chain.getLastD 0

/-- An edge of `oclk` (R214): each chain shifts, its first stage captures the gray register; `orst` sets the flip-flops
to 0 and leaves the remote flags unsettled (R219). -/
def AsyncRegs.clocked (a : AsyncRegs) (orst : Bool) (freeW freeR : Nat) : AsyncRegs :=
  if orst then
    { a with
      wcChain := a.wcChain.map fun _ => 0, rcChain := a.rcChain.map fun _ => 0
      wcGOld := a.wcG, rcGOld := a.rcG, sinceChange := 0, sinceJump := 0 }
  else
    { a with
      wcChain := shiftIn (captured freeW a.wcGOld a.wcG) a.wcChain
      rcChain := shiftIn (captured freeR a.rcGOld a.rcG) a.rcChain
      wcGOld := a.wcG, rcGOld := a.rcG
      sinceChange := a.sinceChange + 1, sinceJump := a.sinceJump + 1 }

/-- `wc_o` (R214). -/
def AsyncRegs.wcO (a : AsyncRegs) (w : Nat) : Nat := ungray w (lastStage a.wcChain)

/-- `rc_o` (R214). -/
def AsyncRegs.rcO (a : AsyncRegs) (w : Nat) : Nat := ungray w (lastStage a.rcChain)

/-- The comparators of R215 on the synchronised copies. -/
def State.syncedEmpty (s : State) : Bool := s.async.wcO s.params.width == s.async.rcO s.params.width

/-- The comparators of R215 on the synchronised copies. -/
def State.syncedFull (s : State) : Bool :=
  wsub s.params.width (s.async.wcO s.params.width) (s.async.rcO s.params.width) == s.cap

/-- Case (a) of R216: nothing has changed during the last `SYNC_STAGES + 1` periods of `oclk`. -/
def State.settled (s : State) : Bool := decide (s.params.syncStages + 1 ≤ s.async.sinceChange)

/-- Case (a) or (b) of R216: during that window there were unit steps at most. -/
def State.unitWindow (s : State) : Bool := decide (s.params.syncStages + 1 ≤ s.async.sinceJump)

/-- `empty_o` (R215, R216): in case (c), and outside READY, either value (R218, R219, U13, log 19). -/
def emptyO (s : State) : Bool :=
  if s.life = .ready && (s.settled || s.unitWindow) then s.syncedEmpty else Config.freeBit s.draws 2

/-- `full_o` (R215, R216): in case (c), and outside READY, either value (R218, R219, U13, log 19). -/
def fullO (s : State) : Bool :=
  if s.life = .ready && (s.settled || s.unitWindow) then s.syncedFull else Config.freeBit s.draws 3

/-- An edge of `oclk`; it exists only with the option (R210, log 20). -/
def oclkEdge (orst : Bool) (s : State) : Out :=
  if s.params.asyncFlags then
    .next { s with
      async := s.async.clocked orst (Config.freeMask s.draws 0) (Config.freeMask s.draws 1)
      draws := s.draws + 1 }
  else .refused .noSecondClock

/-- The remote observer reads its two flags (R218). -/
def observe (s : State) : Out :=
  if s.params.asyncFlags then .next { s with remoteSeen := some (emptyO s, fullO s), draws := s.draws + 1 }
  else .refused .noSecondClock

end Sys2Proof.Machine
end

