-- ==== Sys2Proof/Machine/Events.lean ====
section
/-! DEFINITION. What each move of an agent does: the three events of an operation at the transaction level
(20_memory.md R66), and the edges of the port level. -/

namespace Sys2Proof.Machine

/-- Requester `r` issues an operation (R66): one at a time (R38, U18), and in keeping with duty H2 of R270 (log 7). -/
def issue (r word : Nat) (data : List Byte) (s : State) : Out :=
  if s.params.nReq ≤ r then .refused .noSuchRequester
  else if s.slot r ≠ .idle then .refused .portProtocol
  else if s.quietBreach r word then .fault .notQuiescent
  else .next { s with slots := setSlot s.slots r (.issued ⟨wireWord s.params.width word, some data⟩) }

/-- Requester `r` receives its result (R66); nothing happens while there is none. -/
def receive (r : Nat) (s : State) : Out :=
  match s.slot r with
  | .answered _ _ => .next { s with slots := setSlot s.slots r .idle }
  | _ => .next s

/-- One move of one agent. In FATAL only the hardware reset runs (R232, R244; log 6). -/
def runEvent (e : Event) (s : State) : Out :=
  match e with
  | .issue r word data => unlessFatal (issue r word data) s
  | .effect r => serve { s with turn := r }
  | .ret r => unlessFatal (receive r) s
  | .edge inp => clkEdge inp s
  | .oedge orst => unlessFatal (oclkEdge orst) s
  | .observe => unlessFatal observe s

end Sys2Proof.Machine
end

