-- ==== Sys2Proof/Machine/Step.lean ====
section
/-! DEFINITION. One step: the next move of the script; when the script is at its end, the effect of the operation of
the requester whose turn it is. -/

namespace Sys2Proof.Machine

/-- One step (log 3). -/
def step (s : State) : Host.Outcome State Fault Refusal :=
  match s.script with
  | [] => serve s
  | e :: rest => runEvent e { s with script := rest }

/-- The state with the command word of the table's bits `w` issued by requester 0, without a data operand, whose effect
is the very next step (log 3, log 21). -/
def State.withFetchWord (s : State) (nbits w : Nat) : State :=
  { s with slots := setSlot s.slots 0 (.issued ⟨tableWord s.params.width nbits w, none⟩), turn := 0, script := [] }

end Sys2Proof.Machine
end

