-- ==== Sys2Proof/Safety.lean ====
section
/-! DEFINITION. The vocabulary of claims: what an operation leaves unchanged, the invariants of the machine, the
queue of bytes it holds, and runs of the port level. -/

namespace Sys2Proof.Machine

/-! ### Frames -/

/-- The parameters, the remote observer's last read and the model's own fields are unchanged. -/
def sameOuter (t s : State) : Prop :=
  t.params = s.params ∧ t.remoteSeen = s.remoteSeen ∧ t.script = s.script ∧ t.turn = s.turn ∧ t.draws = s.draws

/-- The registers of the port level's sequencer are unchanged. -/
def sameSequencer (t s : State) : Prop :=
  t.curOp = s.curOp ∧ t.curArg = s.curArg ∧ t.curN = s.curN ∧ t.beat = s.beat ∧ t.phase = s.phase

/-- Both cursors and the capacity are unchanged, and with them the option's copies. -/
def sameCursors (t s : State) : Prop := t.wc = s.wc ∧ t.rc = s.rc ∧ t.cap = s.cap ∧ t.async = s.async

/-- Lifecycle, lock and fatal bit are unchanged. -/
def sameControl (t s : State) : Prop := t.life = s.life ∧ t.lock = s.lock ∧ t.fatal = s.fatal

/-- Every byte of storage reads as before. -/
def sameBytes (t s : State) : Prop := ∀ a, t.storage.read a = s.storage.read a

/-- Every requester but `r` has in flight what it had. -/
def sameOtherSlots (r : Nat) (t s : State) : Prop := ∀ r', r' ≠ r → t.slot r' = s.slot r'

/-- The operation of requester `s.turn` has ended with this response, and no other requester's slot has changed. -/
def answeredWith (t s : State) (st : Status) (val : Nat) (bytes : List Byte) : Prop :=
  t.slot s.turn = .answered (s.slotWord s.turn) ⟨st, val, bytes⟩ ∧ sameOtherSlots s.turn t s

/-- The option's registers follow the cursors when it is built, and nothing of it changes when it is not: the gray
registers hold the code of the new cursors, the flip-flops are untouched (R213, R214). -/
def asyncFollows (t s : State) : Prop :=
  (s.params.asyncFlags = true → t.async.wcG = gray t.wc ∧ t.async.rcG = gray t.rc) ∧
  (s.params.asyncFlags = false → t.async = s.async) ∧
  t.async.wcChain = s.async.wcChain ∧ t.async.rcChain = s.async.rcChain

/-- Nothing has changed but the answer to requester `s.turn`. -/
def onlyAnswered (t s : State) (st : Status) (val : Nat) : Prop :=
  answeredWith t s st val [] ∧ sameCursors t s ∧ sameControl t s ∧ sameBytes t s ∧ sameSequencer t s ∧ sameOuter t s

/-! ### Invariants -/

/-- The storage list is in its canonical form, inside the array (R26, R50). -/
def storageInv (s : State) : Prop :=
  s.storage.wf = true ∧ s.storage.within s.params.maxCapacity = true

/-- The cursors and the capacity are numbers of `W` bits (R21, R22, R24). -/
def widthInv (s : State) : Prop :=
  s.wc < 2 ^ s.params.width ∧ s.rc < 2 ^ s.params.width ∧ s.cap < 2 ^ s.params.width

/-- I1 and I2 of R33: while READY the capacity is a power of two not above `MAX_CAPACITY`, and the occupancy is not
above the capacity. -/
def cursorInv (s : State) : Prop :=
  s.life = .ready → isPow2 s.params.width s.cap = true ∧ s.cap ≤ s.params.maxCapacity ∧ s.occ ≤ s.cap

/-- `fatal = 1` if and only if `life = FATAL` (R30). -/
def fatalInv (s : State) : Prop := s.fatal = true ↔ s.life = .fatal

/-- While READY every occupied byte has a value (R60). -/
def occupiedInv (s : State) : Prop :=
  s.life = .ready → ∀ j, j < s.occ →
    (s.storage.read (cellIndex s.params.width s.mask s.rc j)).isSome = true

/-- Only the `N_REQ` requesters have operations in flight (R38). -/
def portsInv (s : State) : Prop := ∀ r, s.params.nReq ≤ r → s.slot r = .idle

/-- The lock and the slots agree (R29, R187): its holder is a requester whose lock-taking command executes, latched in
the sequencer; no other command executes. -/
def lockInv (s : State) : Prop :=
  (∀ g, s.lock = .held g → s.life = .ready ∧
    ∃ w, s.slot g = .executing w (s.moved g) ∧ lockTaking s.params.width .ready w = true ∧
      s.curOp = opField s.params.width w ∧ s.curArg = argField s.params.width w) ∧
  (∀ r w bs, s.slot r = .executing w bs → s.lock = .held r)

/-- In the data phase of a PUT: it fits, and the bytes taken so far are stored from `wc` on (R188, R189). -/
def putDataInv (s : State) (g : Nat) : Prop :=
  ∃ n, s.curCommand = .command (.put n) ∧ s.curN = n ∧ n ≤ s.avail ∧ s.beat < n ∧
    (s.moved g).length = s.beat ∧
    ∀ i, i < s.beat → s.storage.read (cellIndex s.params.width s.mask s.wc i) = (s.moved g)[i]?

/-- In the data phase of a GET: the length is clamped to the occupancy, and the bytes given so far are those from `rc`
on (R188, R190). -/
def getDataInv (s : State) (g : Nat) : Prop :=
  ∃ req, s.curCommand = .command (.get req) ∧ s.curN = s.clampGet req ∧ s.beat < s.curN ∧
    (s.moved g).length = s.beat ∧
    ∀ i, i < s.beat → s.storage.read (cellIndex s.params.width s.mask s.rc i) = (s.moved g)[i]?

/-- The sequencer inside a command (R187 to R190): before the check edge no beat has been; after it one of the two
data phases. -/
def sequencerInv (s : State) : Prop :=
  ∀ g, s.lock = .held g →
    match s.phase with
    | .check => s.beat = 0 ∧ s.moved g = []
    | .data => putDataInv s g ∨ getDataInv s g

/-- The machine's invariant. It holds at reset and every step keeps it. -/
structure Inv (s : State) : Prop where
  storage : storageInv s
  width : widthInv s
  cursors : cursorInv s
  fatal : fatalInv s
  occupied : occupiedInv s
  ports : portsInv s
  lock : lockInv s
  sequencer : sequencerInv s

/-- With the option, the gray registers hold the code of the cursors in every state (R213). -/
def grayInv (s : State) : Prop :=
  s.params.asyncFlags = true → s.async.wcG = gray s.wc ∧ s.async.rcG = gray s.rc

/-- With the option, one chain after some edges of `oclk` without a change: it has its `SYNC_STAGES` flip-flops, and
all but the last one or two edges' worth of them hold the gray register (R214, R216). -/
def chainInv (stages since : Nat) (g old : Nat) (chain : List Nat) : Prop :=
  chain.length = stages ∧ (1 ≤ since → old = g) ∧
  ∀ i, i + 2 ≤ since → i < chain.length → chain[i]? = some g

/-- With the option, both chains are as the edges of `oclk` since the last change have left them (R214, R216). -/
def syncInv (s : State) : Prop :=
  s.params.asyncFlags = true →
    chainInv s.params.syncStages s.async.sinceChange s.async.wcG s.async.wcGOld s.async.wcChain ∧
    chainInv s.params.syncStages s.async.sinceChange s.async.rcG s.async.rcGOld s.async.rcChain

/-! ### The queue -/

/-- The bytes in the buffer, oldest first: the occupied bytes from `rc` on (R54, R59). -/
def contents (s : State) : Except Fault (List Byte) :=
  memRead s.params.width s.params.maxCapacity s.mask s.rc s.storage 0 s.occ

/-! ### The transaction level and the port level side by side -/

/-- `s` with an operation issued by requester `r`, whose turn it is. -/
def issuedBy (s : State) (r : Nat) (w : Nat) (data : Option (List Byte)) : State :=
  { s with slots := setSlot s.slots r (.issued ⟨w, data⟩), turn := r }

/-- Inputs with `rst = 0` in which requester `g` alone drives its pins. -/
def soloInput (g : Nat) (q : ReqIn) : PortIn :=
  { rst := false, grant := 0, reqs := List.replicate g ReqIn.rest ++ [q] }

/-- Pins presenting a command. -/
def presenting (w : Nat) : ReqIn := { ReqIn.rest with cmdValid := true, cmdWord := w }

/-- Pins offering a data byte. -/
def offering (b : Byte) : ReqIn := { ReqIn.rest with wdValid := true, wdByte := b }

/-- Pins ready to take a data byte. -/
def taking : ReqIn := { ReqIn.rest with rdReady := true }

/-- A run of edges of `clk`. -/
def runEdges : List PortIn → State → Out
  | [], s => .next s
  | inp :: rest, s =>
    match clkEdge inp s with
    | .next s' => runEdges rest s'
    | .fault f => .fault f
    | .refused f => .refused f

/-- The transaction-level state of the block agrees, and what every requester has in flight (R20, R38). -/
def sameBlock (t u : State) : Prop :=
  t.wc = u.wc ∧ t.rc = u.rc ∧ t.cap = u.cap ∧ sameBytes t u ∧ t.life = u.life ∧ t.lock = u.lock ∧
  t.fatal = u.fatal ∧ t.async = u.async ∧ t.params = u.params ∧ ∀ r, t.slot r = u.slot r

end Sys2Proof.Machine
end

