-- ==== Sys2Proof/Certificates/Slice0/Obligations.lean ====
section
/-! DEFINITION. The statements for the provers, from the numbered rules of spec/. `s.turn` is the requester whose
operation takes effect; `s.slot s.turn` holds it. `s.params.width` is `W` (R9): every statement about a state or a word
is one for every width. -/

open Sys2Proof Sys2Proof.Machine

/-! ### Encoding -/

/-- Decoding the word of an operation gives the operation, at every width, with every operand at every value (R81,
R82, R83, R92). -/
def Obligations.DecodeOfEncode : Prop :=
  ∀ (W : Nat) (i : Instr), i.WellFormed W → encode W i < 2 ^ (W + 4) ∧ decode W (encode W i) = .command i

/-- Every word decodes to an operation with its `op`, whose word it is when it has an operand, or to reserved; and
reserved are exactly `op` 0 and 9 to 15 (R85, R89). -/
def Obligations.DecodeIsTotal : Prop :=
  ∀ W w : Nat, w < 2 ^ (W + 4) →
    (∀ i, decode W w = .command i →
      i.WellFormed W ∧ opField W w = i.opcode ∧
      (((∃ c, i = .init c) ∨ (∃ n, i = .put n) ∨ (∃ n, i = .get n)) → encode W i = w)) ∧
    (decode W w = .reserved (opField W w) ↔ (opField W w).toNat = 0 ∨ 9 ≤ (opField W w).toNat) ∧
    ((∃ i, decode W w = .command i) ∨ decode W w = .reserved (opField W w))

/-- The example words of R92 decode to the operations they stand for. -/
def Obligations.ExampleWordsDecode : Prop :=
  decode 32 0x100000010 = .command (.init 16) ∧ decode 32 0x200000000 = .command .reset ∧
  decode 32 0x300000000 = .command .isEmpty ∧ decode 32 0x400000000 = .command .isFull ∧
  decode 32 0x500000000 = .command .len ∧ decode 32 0x600000009 = .command (.put 9) ∧
  decode 32 0x700000010 = .command (.get 16) ∧ decode 32 0x800000000 = .command .release

/-- The response word has `status` in bits `W+2` to `W`, with the codes of R87, and `val` in bits `W-1` to 0 (R86,
R87). -/
def Obligations.ResponseWordLayout : Prop :=
  ∀ (W : Nat) (st : Status) (v : Nat) (bs : List Byte), v < 2 ^ W →
    Response.word W ⟨st, v, bs⟩ / 2 ^ W =
      (match st with
        | .ok => 0
        | .allocationFailure => 1
        | .insufficientSpace => 2
        | .bufferEmpty => 3
        | .badState => 4
        | .illegalOp => 5) ∧
    Response.word W ⟨st, v, bs⟩ % 2 ^ W = v ∧ Response.word W ⟨st, v, bs⟩ < 2 ^ (W + 3)

/-! ### The step -/

/-- The step runs the decoded operation: at the end of the script that of the requester whose turn it is, and at an
`effect` event that of the requester the event names (R66; the form of the script is the model's, log 3). -/
def Obligations.StepRunsDecodedOperation : Prop :=
  ∀ (s : State) (r : Nat) (op : Op) (i : Instr),
    s.slot r = .issued op → decode s.params.width op.word = .command i →
    (s.script = [] → s.turn = r → step s = exec i s) ∧
    ∀ rest, s.script = .effect r :: rest → step s = exec i { s with script := rest, turn := r }

/-- A word placed where the next step fetches is the one that runs, at every width of R9 (the model's fetch, log 3,
log 21). -/
def Obligations.FetchedWordRuns : Prop :=
  ∀ (s : State) (nbits w : Nat) (i : Instr),
    32 ≤ s.params.width →
    decodeTableWord nbits w = some i → step (s.withFetchWord nbits w) = exec i (s.withFetchWord nbits w)

/-- Issue and return (R66): an issue that keeps duty H2 of R270 puts the operation in flight and does nothing else; a
return ends it and does nothing else. -/
def Obligations.IssueAndReturn : Prop :=
  (∀ (s : State) (r w : Nat) (data : List Byte) (rest : List Event),
    s.script = .issue r w data :: rest → s.life ≠ .fatal → r < s.params.nReq → s.slot r = .idle →
    (∀ r', r' ≠ r → (s.slot r').needsQuiet s.params.width = false) →
    (wordNeedsQuiet s.params.width w = true → ∀ r', r' ≠ r → s.slot r' = .idle) →
    ∃ t, step s = .next t ∧ t.slot r = .issued ⟨wireWord s.params.width w, some data⟩ ∧
      sameOtherSlots r t s ∧ sameCursors t s ∧ sameControl t s ∧ t.storage = s.storage ∧ sameSequencer t s ∧
      sameOuter t { s with script := rest }) ∧
  (∀ (s : State) (r w : Nat) (rsp : Response) (rest : List Event),
    s.script = .ret r :: rest → s.life ≠ .fatal → s.slot r = .answered w rsp →
    ∃ t, step s = .next t ∧ t.slot r = .idle ∧ sameOtherSlots r t s ∧ sameCursors t s ∧
      sameControl t s ∧ t.storage = s.storage ∧ sameSequencer t s ∧
      sameOuter t { s with script := rest })

/-! ### INIT and RELEASE -/

/-- A successful INIT (R103): capacity, cursors, lock and `life` are written; the response carries the capacity;
nothing else changes. What its storage holds afterwards the spec leaves unspecified (R40): see
`StorageUnspecified`. -/
def Obligations.InitCreatesBuffer : Prop :=
  ∀ (s : State) (c : Nat),
    (s.life = .uninit ∨ s.life = .released) → (∀ r, r ≠ s.turn → s.slot r = .idle) → s.lock = .free →
    (∃ k, k < s.params.width ∧ c = 2 ^ k) → c ≤ s.params.maxCapacity →
    ∃ t, exec (.init c) s = .next t ∧ answeredWith t s .ok c [] ∧ t.cap = c ∧ t.wc = 0 ∧ t.rc = 0 ∧
      t.lock = .free ∧ t.life = .ready ∧ t.fatal = s.fatal ∧ sameSequencer t s ∧ sameOuter t s ∧ asyncFollows t s

/-- The fatal fault (R101, R231, R232): an operand that is zero or no power of two, whatever its size: `life` and
`fatal` are written, no response is given, the operand is kept nowhere, nothing else changes. That the entry is a next
state, and only what follows it a fault, is log 6. -/
def Obligations.InitFatalFault : Prop :=
  ∀ (s : State) (c : Nat),
    (s.life = .uninit ∨ s.life = .released) → (∀ r, r ≠ s.turn → s.slot r = .idle) → s.lock = .free →
    (∀ k, k < s.params.width → c ≠ 2 ^ k) →
    ∃ t, exec (.init c) s = .next t ∧ t.life = .fatal ∧ t.fatal = true ∧
      t.slot s.turn = .unanswered ∧ sameOtherSlots s.turn t s ∧ sameCursors t s ∧
      t.lock = s.lock ∧ sameBytes t s ∧ sameSequencer t s ∧ sameOuter t s

/-- ALLOCATION_FAILURE (R102, R233): a power of two above `MAX_CAPACITY`; nothing changes but the response. -/
def Obligations.InitAllocationFailure : Prop :=
  ∀ (s : State) (c : Nat),
    (s.life = .uninit ∨ s.life = .released) → (∀ r, r ≠ s.turn → s.slot r = .idle) → s.lock = .free →
    (∃ k, k < s.params.width ∧ c = 2 ^ k) → s.params.maxCapacity < c →
    ∃ t, exec (.init c) s = .next t ∧ onlyAnswered t s .allocationFailure 0

/-- INIT in READY (R104): BAD_STATE, whatever the operand; nothing changes but the response. That the model gives the
answer, where R236 also asks a model to refuse the issue, is log 5. -/
def Obligations.InitWhenReadyRefused : Prop :=
  ∀ (s : State) (c : Nat),
    s.life = .ready → (∀ r, r ≠ s.turn → s.slot r = .idle) → s.lock = .free →
    ∃ t, exec (.init c) s = .next t ∧ onlyAnswered t s .badState 0

/-- RELEASE (R170): `life` alone is written; nothing else changes but the contents of storage, which become unspecified
(R170, R174): see `StorageUnspecified`. -/
def Obligations.ReleaseFreesBuffer : Prop :=
  ∀ s : State,
    s.life = .ready → (∀ r, r ≠ s.turn → s.slot r = .idle) → s.lock = .free →
    ∃ t, exec .release s = .next t ∧ answeredWith t s .ok 0 [] ∧ t.life = .released ∧ t.lock = s.lock ∧
      t.fatal = s.fatal ∧ sameCursors t s ∧ sameSequencer t s ∧ sameOuter t s

/-- The model's form of R40's 'unspecified' (log 8, DESIGN CHOICE): right after reset, after a successful INIT, after
a RELEASE in READY and after a hardware reset no byte of storage has a value. -/
def Obligations.StorageUnspecified : Prop :=
  (∀ a, State.reset.storage.read a = none) ∧
  (∀ (s t : State) (c : Nat), exec (.init c) s = .next t → s.life ≠ .ready → t.life = .ready →
    ∀ a, t.storage.read a = none) ∧
  (∀ s t : State, exec .release s = .next t → s.life = .ready → ∀ a, t.storage.read a = none) ∧
  (∀ (s t : State) (inp : PortIn), clkEdge inp s = .next t → inp.rst = true → ∀ a, t.storage.read a = none)

/-- INIT and RELEASE need quiescence (R67): with another operation in flight, or the lock held, the model faults. -/
def Obligations.QuiescenceBreachFaults : Prop :=
  ∀ (s : State) (c : Nat),
    s.life ≠ .fatal → ((∃ r, r ≠ s.turn ∧ s.slot r ≠ .idle) ∨ s.lock ≠ .free) →
    exec (.init c) s = .fault .notQuiescent ∧ exec .release s = .fault .notQuiescent

/-! ### The lock-taking operations and the queries -/

/-- RESET (R106, R108): both cursors become zero; storage, capacity and `life` stay. -/
def Obligations.ResetEmptiesBuffer : Prop :=
  ∀ s : State,
    s.life = .ready → s.lock = .free →
    ∃ t, exec .reset s = .next t ∧ answeredWith t s .ok 0 [] ∧ t.wc = 0 ∧ t.rc = 0 ∧ t.cap = s.cap ∧
      sameControl t s ∧ sameBytes t s ∧ sameSequencer t s ∧ sameOuter t s ∧ asyncFollows t s

/-- IS_EMPTY and IS_FULL (R120, R121): answered whoever holds the lock; nothing changes but the response. -/
def Obligations.UnlockedQueriesAnswer : Prop :=
  ∀ s : State,
    s.life = .ready →
    (∃ t, exec .isEmpty s = .next t ∧ onlyAnswered t s .ok (if s.wc = s.rc then 1 else 0)) ∧
    (∃ t, exec .isFull s = .next t ∧ onlyAnswered t s .ok (if wsub s.params.width s.wc s.rc = s.cap then 1 else 0))

/-- LEN (R123): the difference of the cursors; nothing changes but the response. -/
def Obligations.LenAnswersOccupancy : Prop :=
  ∀ s : State,
    s.life = .ready → s.lock = .free →
    ∃ t, exec .len s = .next t ∧ onlyAnswered t s .ok (wsub s.params.width s.wc s.rc)

/-- A PUT that fits (R140, R143, R144): byte `i` of the data is at index `(wc + i) & MASK`, every other byte of
storage is as before, `wc` moves by the whole length, `rc` and everything else stay. -/
def Obligations.PutStoresBytes : Prop :=
  ∀ (s : State) (n w : Nat) (data : List Byte),
    s.life = .ready → s.lock = .free → s.slot s.turn = .issued ⟨w, some data⟩ →
    (∃ k, k < s.params.width ∧ s.cap = 2 ^ k) → s.cap ≤ s.params.maxCapacity →
    wsub s.params.width s.wc s.rc ≤ s.cap → n ≤ s.cap - wsub s.params.width s.wc s.rc → n ≤ data.length →
    ∃ t, exec (.put n) s = .next t ∧ answeredWith t s .ok n [] ∧ t.wc = wadd s.params.width s.wc n ∧ t.rc = s.rc ∧
      t.cap = s.cap ∧ sameControl t s ∧ sameSequencer t s ∧ sameOuter t s ∧ asyncFollows t s ∧
      (∀ i, i < n → t.storage.read (cellIndex s.params.width (s.cap - 1) s.wc i) = data[i]?) ∧
      (∀ a, (∀ i, i < n → a ≠ cellIndex s.params.width (s.cap - 1) s.wc i) → t.storage.read a = s.storage.read a)

/-- A PUT that does not fit (R141): INSUFFICIENT_SPACE, nothing written. Its data has at least its length in bytes, as
R140 says of the operand; shorter data is `PutShortDataRefused` (log 10). -/
def Obligations.PutAllOrNothing : Prop :=
  ∀ (s : State) (n w : Nat) (data : List Byte),
    s.life = .ready → s.lock = .free → s.slot s.turn = .issued ⟨w, some data⟩ → n ≤ data.length →
    wsub s.params.width s.cap (wsub s.params.width s.wc s.rc) < n →
    ∃ t, exec (.put n) s = .next t ∧ onlyAnswered t s .insufficientSpace 0

/-- A PUT whose data is shorter than its length has no meaning, and the model refuses it, whatever the lifecycle but
FATAL, the lock and the free space (R146, R245; that it refuses at the effect is log 10). -/
def Obligations.PutShortDataRefused : Prop :=
  ∀ (s : State) (n w : Nat) (data : List Byte),
    s.life ≠ .fatal → s.slot s.turn = .issued ⟨w, some data⟩ → data.length < n →
    exec (.put n) s = .refused .shortData

/-- A GET on a buffer that is not empty (R150, R152 to R156): the effective length is the smaller of the request and
the occupancy; result byte `i` is that at index `(rc + i) & MASK`; when everything is taken both cursors become zero,
else `rc` moves by the effective length; storage and everything else stay. -/
def Obligations.GetDeliversBytes : Prop :=
  ∀ (s : State) (req : Nat),
    s.life = .ready → s.lock = .free → s.wc ≠ s.rc → s.wc < 2 ^ s.params.width →
    (∃ k, k < s.params.width ∧ s.cap = 2 ^ k) → s.cap ≤ s.params.maxCapacity →
    (∀ i, i < wsub s.params.width s.wc s.rc →
      (s.storage.read (cellIndex s.params.width (s.cap - 1) s.rc i)).isSome = true) →
    ∃ t n out, exec (.get req) s = .next t ∧ n = min req (wsub s.params.width s.wc s.rc) ∧
      answeredWith t s .ok n out ∧ out.length = n ∧
      (∀ i, i < n → s.storage.read (cellIndex s.params.width (s.cap - 1) s.rc i) = out[i]?) ∧
      (n = wsub s.params.width s.wc s.rc → t.wc = 0 ∧ t.rc = 0) ∧
      (n ≠ wsub s.params.width s.wc s.rc → t.wc = s.wc ∧ t.rc = wadd s.params.width s.rc n) ∧
      t.cap = s.cap ∧ sameControl t s ∧ sameBytes t s ∧ sameSequencer t s ∧ sameOuter t s ∧ asyncFollows t s

/-- A GET on an empty buffer (R151): BUFFER_EMPTY with the requested length unchanged, whatever the length. -/
def Obligations.GetOnEmptyRejected : Prop :=
  ∀ (s : State) (req : Nat),
    s.life = .ready → s.lock = .free → s.wc = s.rc →
    ∃ t, exec (.get req) s = .next t ∧ onlyAnswered t s .bufferEmpty req

/-! ### Conditions that hold for every operation -/

/-- Outside READY (R107, R125, R148, R159, R173, R236): every operation but INIT is answered BAD_STATE with `val` 0, GET
with its requested length, and nothing else changes; RELEASE under the quiescence of R67, PUT with the data R140 asks
for. That the model gives the answer, where R236 also asks a model to refuse the issue, is log 5. -/
def Obligations.OutsideReadyBadState : Prop :=
  ∀ (s : State) (i : Instr),
    (s.life = .uninit ∨ s.life = .released) → (∀ c, i ≠ .init c) →
    (i = .release → (∀ r, r ≠ s.turn → s.slot r = .idle) ∧ s.lock = .free) →
    (∀ n w data, i = .put n → s.slot s.turn = .issued ⟨w, some data⟩ → n ≤ data.length) →
    ∃ t, exec i s = .next t ∧
      onlyAnswered t s .badState (match i with | .get req => req | _ => 0)

/-- While the lock is held a lock-taking operation waits, and nothing changes (R62, R70; that waiting is a step of the
model is log 11). -/
def Obligations.HeldLockMakesWait : Prop :=
  ∀ (s : State) (g n : Nat),
    s.life = .ready → s.lock = .held g →
    exec .reset s = .next s ∧ exec .len s = .next s ∧ exec (.get n) s = .next s ∧
    ((∀ w data, s.slot s.turn = .issued ⟨w, some data⟩ → n ≤ data.length) → exec (.put n) s = .next s)

/-- FATAL is a fault state (R232, R244, U20; log 6): in it every effect of an operation, every step at the end of the
script and every event but a hardware reset is the fault `fatalState`; the hardware reset leaves it. -/
def Obligations.FatalAcceptsNothing : Prop :=
  ∀ s : State,
    s.life = .fatal →
    (∀ i, exec i s = .fault .fatalState) ∧ (s.script = [] → step s = .fault .fatalState) ∧
    ∀ e rest, s.script = e :: rest →
      ((∀ inp, e = .edge inp → inp.rst = false) → step s = .fault .fatalState) ∧
      (∀ inp, e = .edge inp → inp.rst = true → ∃ t, step s = .next t ∧ t.life = .uninit ∧ t.fatal = false)

/-- A reserved `op` (R85, R237): ILLEGAL_OP with `val` 0 in every lifecycle state but FATAL; nothing else changes (that
the model runs it rather than refuse it is log 5). -/
def Obligations.ReservedOpAnswered : Prop :=
  ∀ (s : State) (op : Op),
    s.life ≠ .fatal → s.script = [] → s.slot s.turn = .issued op →
    ((opField s.params.width op.word).toNat = 0 ∨ 9 ≤ (opField s.params.width op.word).toNat) →
    ∃ t, step s = .next t ∧ onlyAnswered t s .illegalOp 0

/-- A rejected operation changes nothing (R162, R239): whichever word was issued, a reserved `op` included, an answer
with a status other than OK leaves everything else as it was, and carries no bytes. -/
def Obligations.RejectionsChangeNothing : Prop :=
  ∀ (s t : State) (op : Op) (w : Nat) (rsp : Response),
    s.slot s.turn = .issued op → serve s = .next t → t.slot s.turn = .answered w rsp → rsp.status ≠ .ok →
    rsp.bytes = [] ∧ sameOtherSlots s.turn t s ∧ sameCursors t s ∧ sameControl t s ∧ sameBytes t s ∧
      sameSequencer t s ∧ sameOuter t s

/-! ### Lifecycle, capacity, reset -/

/-- The transitions of `life` are those of R28, whatever the step. -/
def Obligations.LifeTransitions : Prop :=
  ∀ s t : State,
    step s = .next t → t.life ≠ s.life →
    (t.life = .uninit ∧ ∃ inp rest, s.script = .edge inp :: rest ∧ inp.rst = true) ∨
    (t.life = .ready ∧ (s.life = .uninit ∨ s.life = .released)) ∨
    (t.life = .released ∧ s.life = .ready) ∨
    (t.life = .fatal ∧ (s.life = .uninit ∨ s.life = .released))

/-- `cap` is written only by a successful INIT, with a power of two not above `MAX_CAPACITY`, and by the hardware reset
(R24, R40). -/
def Obligations.CapacityWrittenByInitOnly : Prop :=
  ∀ s t : State,
    step s = .next t → t.cap ≠ s.cap →
    (t.cap = 0 ∧ ∃ inp rest, s.script = .edge inp :: rest ∧ inp.rst = true) ∨
    ((s.life = .uninit ∨ s.life = .released) ∧ t.life = .ready ∧
      (∃ k, k < s.params.width ∧ t.cap = 2 ^ k) ∧ t.cap ≤ s.params.maxCapacity)

/-- No step changes the build parameters (R9). -/
def Obligations.ParametersNeverChange : Prop := ∀ s t : State, step s = .next t → t.params = s.params

/-- The hardware reset (R260, R40): an edge with `rst = 1`, in any state: the registers of R40, every operation in
flight abandoned. -/
def Obligations.HardwareReset : Prop :=
  ∀ (s : State) (inp : PortIn) (rest : List Event),
    s.script = .edge inp :: rest → inp.rst = true →
    ∃ t, step s = .next t ∧ t.life = .uninit ∧ t.lock = .free ∧ t.fatal = false ∧ t.wc = 0 ∧ t.rc = 0 ∧
      t.cap = 0 ∧ (∀ r, t.slot r = .idle) ∧ (s.params.asyncFlags = true → t.async.wcG = 0 ∧ t.async.rcG = 0) ∧
      t.params = s.params ∧ t.script = rest

/-- What reset leaves (R40, R219). -/
def Obligations.ResetState : Prop :=
  State.reset.life = .uninit ∧ State.reset.lock = .free ∧ State.reset.fatal = false ∧ State.reset.wc = 0 ∧
  State.reset.rc = 0 ∧ State.reset.cap = 0 ∧
  (∀ r, State.reset.slot r = .idle) ∧ State.reset.async.wcG = 0 ∧ State.reset.async.rcG = 0 ∧
  State.reset.async.wcO State.reset.params.width = 0 ∧ State.reset.async.rcO State.reset.params.width = 0

/-! ### Invariants -/

/-- The machine right after reset meets the invariant, with the parameters of `State.reset` and with any others, the
option built or not (R219). -/
def Obligations.ResetMeetsInvariant : Prop :=
  (Inv State.reset ∧ grayInv State.reset ∧ syncInv State.reset) ∧
  ∀ (p : Params) (s : State),
    s = { State.reset with params := p, async := AsyncRegs.atReset p.syncStages } →
    Inv s ∧ grayInv s ∧ syncInv s ∧ s.async.wcO p.width = 0 ∧ s.async.rcO p.width = 0

/-- Every step keeps the canonical form of storage and its bounds (R26). -/
def Obligations.StepKeepsStorageForm : Prop := ∀ s t : State, storageInv s → step s = .next t → storageInv t

/-- Every step keeps the invariant: I1 and I2 of R33, the fatal bit, the form of storage, the value of every occupied
byte, the agreement of lock, slots and sequencer. -/
def Obligations.StepKeepsInvariant : Prop := ∀ s t : State, Inv s → step s = .next t → Inv t

/-- No operation and no edge ever touches a byte without a value or an index outside the array (R60, R59, R26; the
faults are the model's form of it, log 8, log 9). -/
def Obligations.NoUnspecifiedByte : Prop :=
  ∀ s : State, Inv s → step s ≠ .fault .unspecifiedByte ∧ step s ≠ .fault .noSuchByte

/-! ### The queue -/

/-- PUT appends (R54, R161): a PUT that fits makes the queue longer by the first `n` bytes of its data. -/
def Obligations.PutAppends : Prop :=
  ∀ (s : State) (n w : Nat) (data q : List Byte),
    Inv s → s.life = .ready → s.lock = .free → s.slot s.turn = .issued ⟨w, some data⟩ → contents s = .ok q →
    n ≤ s.cap - wsub s.params.width s.wc s.rc → n ≤ data.length →
    ∃ t, exec (.put n) s = .next t ∧ contents t = .ok (q ++ data.take n) ∧ answeredWith t s .ok n []

/-- GET takes from the front (R54, R161): it returns as many bytes of the queue as asked for and there are, oldest
first, and leaves the rest. -/
def Obligations.GetTakesFront : Prop :=
  ∀ (s : State) (req : Nat) (q : List Byte),
    Inv s → s.life = .ready → s.lock = .free → contents s = .ok q → q ≠ [] →
    ∃ t n, exec (.get req) s = .next t ∧ n = min req q.length ∧
      answeredWith t s .ok n (q.take req) ∧ contents t = .ok (q.drop req)

/-- Round trip (R161): a PUT into an empty buffer followed by a GET with a large enough buffer returns exactly the
bytes, in order, and both cursors are zero again. -/
def Obligations.RoundTrip : Prop :=
  ∀ (s : State) (n req w w' : Nat) (x : List Byte),
    Inv s → s.life = .ready → s.lock = .free → s.wc = s.rc → s.slot s.turn = .issued ⟨w, some x⟩ →
    x.length = n → n ≠ 0 → n ≤ s.cap → n ≤ req →
    ∃ t u, exec (.put n) s = .next t ∧ exec (.get req) (issuedBy t s.turn w' none) = .next u ∧
      u.slot s.turn = .answered w' ⟨.ok, n, x⟩ ∧ u.wc = 0 ∧ u.rc = 0

/-- PUT overwrites no occupied byte (R59). -/
def Obligations.PutKeepsOccupiedBytes : Prop :=
  ∀ (s t : State) (n : Nat),
    widthInv s → cursorInv s → exec (.put n) s = .next t → s.life = .ready →
    ∀ j, j < s.occ →
      t.storage.read (cellIndex s.params.width s.mask s.rc j) =
        s.storage.read (cellIndex s.params.width s.mask s.rc j)

/-! ### The comparator and the index -/

/-- The relations between the queries at one place of the order (R126, R31). -/
def Obligations.ComparatorRelations : Prop :=
  ∀ s : State,
    widthInv s → cursorInv s → s.life = .ready →
    (s.empty = true ↔ s.occ = 0) ∧ (s.full = true ↔ s.occ = s.cap) ∧ s.occ ≤ s.cap ∧
    s.avail = s.cap - s.occ ∧ ¬ (s.empty = true ∧ s.full = true) ∧
    ∀ n : Nat, s.noSpace n = false ↔ n + s.occ ≤ s.cap

/-- The wrap of a cursor changes no result (R35): with unbounded cursors `WC` and `RC`, the difference of the `W`-bit
cursors is the difference, and the index of byte `i` is `(WC + i) mod cap`. -/
def Obligations.CursorWrapHarmless : Prop :=
  ∀ W WC RC cap : Nat,
    (∃ k, k < W ∧ cap = 2 ^ k) → RC ≤ WC → WC - RC ≤ cap →
    wsub W (WC % 2 ^ W) (RC % 2 ^ W) = WC - RC ∧
    ∀ i, cellIndex W (wsub W cap 1) (WC % 2 ^ W) i = (WC + i) % cap

/-- The two-segment copy (R56) assigns the same indices as the masked copy, byte by byte. -/
def Obligations.TwoSegmentCopy : Prop :=
  ∀ W cap c n i : Nat,
    (∃ k, k < W ∧ cap = 2 ^ k) → n ≤ cap → i < n →
    let idx := c &&& (cap - 1)
    let l1 := min n (cap - idx)
    cellIndex W (cap - 1) c i = if i < l1 then idx + i else i - l1

/-! ### The port level -/

/-- An immediate command over the ports (R185, R186, R196): one edge carries it out as the transaction level does,
whichever command it is, a reserved `op` included; and while another requester holds the lock, IS_EMPTY, IS_FULL and a
reserved `op` are accepted at once and answered from the values before the edge. -/
def Obligations.ImmediateCommandOverPorts : Prop :=
  (∀ (s : State) (g word : Nat),
    s.life ≠ .fatal → s.lock = .free → g < s.params.nReq → (∀ r, s.slot r = .idle) →
    word < 2 ^ (s.params.width + 4) → lockTaking s.params.width s.life word = false →
    cmdReady (soloInput g (presenting word)) s g = true ∧
    ∃ t u, clkEdge (soloInput g (presenting word)) s = .next t ∧
      serve (issuedBy s g word none) = .next u ∧ sameBlock t u) ∧
  (∀ (s : State) (g h word : Nat),
    Inv s → s.lock = .held h → g ≠ h → g < s.params.nReq → (∀ r, r ≠ h → s.slot r = .idle) →
    word < 2 ^ (s.params.width + 4) →
    cmdReady (soloInput g (presenting word)) s g = !lockTaking s.params.width s.life word ∧
    (decode s.params.width word = .command .isEmpty →
      ∃ t, clkEdge (soloInput g (presenting word)) s = .next t ∧
        t.slot g = .answered word ⟨.ok, if s.wc = s.rc then 1 else 0, []⟩) ∧
    (decode s.params.width word = .command .isFull →
      ∃ t, clkEdge (soloInput g (presenting word)) s = .next t ∧
        t.slot g = .answered word ⟨.ok, if wsub s.params.width s.wc s.rc = s.cap then 1 else 0, []⟩) ∧
    (decode s.params.width word = .reserved (opField s.params.width word) →
      ∃ t, clkEdge (soloInput g (presenting word)) s = .next t ∧
        t.slot g = .answered word ⟨.illegalOp, 0, []⟩))

/-- A lock-taking command without a data phase over the ports (R188, R191, R196): RESET, LEN, a PUT rejected or of
length 0, a GET on an empty buffer or of length 0: grant edge and check edge carry it out as the transaction level
does (the edges are those of the reference timing, log 13). -/
def Obligations.ShortCommandOverPorts : Prop :=
  ∀ (s : State) (g : Nat) (i : Instr),
    s.life = .ready → s.lock = .free → g < s.params.nReq → (∀ r, s.slot r = .idle) →
    i.WellFormed s.params.width →
    (i = .reset ∨ i = .len ∨ (∃ n, i = .put n ∧ (n = 0 ∨ s.avail < n)) ∨
      (∃ n, i = .get n ∧ (n = 0 ∨ s.wc = s.rc))) →
    ∃ t u,
      runEdges [soloInput g (presenting (encode s.params.width i)), soloInput g ReqIn.rest] s = .next t ∧
      exec i (issuedBy s g (encode s.params.width i) none) = .next u ∧ sameBlock t u

/-- A PUT over the ports (R189, R196): grant edge, check edge and one edge for each byte leave the block and every
requester as the PUT of the transaction level does with the bytes taken as its data (the edges: log 13). -/
def Obligations.PutOverPorts : Prop :=
  ∀ (s : State) (g n : Nat) (data : List Byte),
    Inv s → s.life = .ready → s.lock = .free → g < s.params.nReq → (∀ r, s.slot r = .idle) →
    n ≠ 0 → n ≤ s.avail → data.length = n →
    ∃ t u,
      runEdges (soloInput g (presenting (encode s.params.width (.put n))) :: soloInput g ReqIn.rest ::
        data.map fun b => soloInput g (offering b)) s = .next t ∧
      exec (.put n) (issuedBy s g (encode s.params.width (.put n)) (some data)) = .next u ∧ sameBlock t u

/-- A GET over the ports (R190, R196): grant edge, check edge and one edge for each byte leave the block and every
requester as the GET of the transaction level does, the bytes given being its result (the edges: log 13). -/
def Obligations.GetOverPorts : Prop :=
  ∀ (s : State) (g req : Nat),
    Inv s → s.life = .ready → s.lock = .free → g < s.params.nReq → (∀ r, s.slot r = .idle) →
    s.wc ≠ s.rc → req ≠ 0 → req < 2 ^ s.params.width →
    ∃ t u,
      runEdges (soloInput g (presenting (encode s.params.width (.get req))) :: soloInput g ReqIn.rest ::
        List.replicate (s.clampGet req) (soloInput g taking)) s = .next t ∧
      exec (.get req) (issuedBy s g (encode s.params.width (.get req)) none) = .next u ∧ sameBlock t u

/-- The holder of the lock waits for its byte (R189, R190, R270 H8), and whoever wants the lock waits for the holder
(R187): at an edge without the byte of a PUT, or without the requester's readiness in a GET, with the other requesters
idle or waiting for the lock, nothing changes but the count of draws, and no command is accepted. -/
def Obligations.PutWaitsForItsByte : Prop :=
  ∀ (inp : PortIn) (s : State) (g : Nat),
    Inv s → inp.rst = false → s.lock = .held g → (inp.req g).cmdValid = false →
    ((inPutData s g = true ∧ (inp.req g).wdValid = false) ∨ (inGetData s g = true ∧ (inp.req g).rdReady = false)) →
    (∀ r, r ≠ g →
      (s.slot r = .idle ∧ (inp.req r).cmdValid = false) ∨
      (∃ w, s.slot r = .presented w ∧ (inp.req r).cmdValid = true ∧
        wireWord s.params.width (inp.req r).cmdWord = w ∧ lockTaking s.params.width .ready w = true)) →
    ∃ t, clkEdge inp s = .next t ∧ sameBlock t s ∧ sameSequencer t s ∧ ∀ r, cmdReady inp s r = false

/-- `cmd_ready` (R186, R187): an immediate command is accepted in every clock period in which it is presented, whoever
holds the lock; a lock-taking command only while the lock is free, and then at most one. -/
def Obligations.CommandAcceptance : Prop :=
  (∀ (inp : PortIn) (s : State) (r : Nat),
    inp.rst = false → s.life ≠ .fatal → r < s.params.nReq → presents inp s r = true →
    lockTaking s.params.width s.life (inp.req r).cmdWord = false → cmdReady inp s r = true) ∧
  (∀ (inp : PortIn) (s : State) (r r' : Nat),
    cmdReady inp s r = true → lockTaking s.params.width s.life (inp.req r).cmdWord = true →
    s.lock = .free ∧
    (cmdReady inp s r' = true → lockTaking s.params.width s.life (inp.req r').cmdWord = true → r' = r)) ∧
  (∀ (inp : PortIn) (s : State) (r : Nat),
    inp.rst = false → s.lock = .free → r ∈ waiting inp s →
    ∃ g, cmdReady inp s g = true ∧ lockTaking s.params.width s.life (inp.req g).cmdWord = true)

/-- Any waiting requester may be the next to get the lock (R68, R187, U1). -/
def Obligations.AnyWaitingMayBeNext : Prop :=
  ∀ (inp : PortIn) (s : State) (r : Nat),
    s.lock = .free → r ∈ waiting inp s → ∃ k, grantee { inp with grant := k } s = some r

/-- In FATAL, and while `rst` is 1, the ports are silent (R194, R195), `rd_byte` is 0 while `rst` is 1 (R195), and the
pin `fatal` is 1 in FATAL (R30). -/
def Obligations.SilentPorts : Prop :=
  ∀ (inp : PortIn) (s : State) (r : Nat),
    (inp.rst = true ∨ s.life = .fatal) →
    cmdReady inp s r = false ∧ wdReady inp s r = false ∧ rdValid inp s r = false ∧ rspValid inp s r = false ∧
    (inp.rst = true → rdByte inp s r = 0) ∧ (fatalInv s → s.life = .fatal → fatalPin s = true)

/-- The response pins (R192) and the data pins of PUT and GET (R189, R190): `rsp_valid` is 1 exactly while the requester
has an answer, which the next edge of `clk` takes away, so for one clock period (R183; log 27); `wd_ready` is 1 exactly
in the data phase of the requester's PUT, `rd_valid` exactly in that of its GET, and the byte on the pins is then that
of storage at `(rc + beat) & MASK`. -/
def Obligations.DataAndResponsePins : Prop :=
  ∀ (inp : PortIn) (s : State) (r : Nat),
    Inv s → inp.rst = false → s.life ≠ .fatal →
    (∀ w rsp, s.slot r = .answered w rsp →
      rspValid inp s r = true ∧ rspWord inp s r = rsp.word s.params.width ∧
      ∀ t, clkEdge inp s = .next t → t.slot r = .idle ∧ ∀ inp', rspValid inp' t r = false) ∧
    ((∀ w rsp, s.slot r ≠ .answered w rsp) → rspValid inp s r = false) ∧
    (inGetData s r = true → rdValid inp s r = true ∧ wdReady inp s r = false ∧
      s.storage.read (cellIndex s.params.width (s.cap - 1) s.rc s.beat) = some (rdByte inp s r)) ∧
    (inPutData s r = true → wdReady inp s r = true ∧ rdValid inp s r = false) ∧
    (s.lock = .held r → s.phase = .check → wdReady inp s r = false ∧ rdValid inp s r = false) ∧
    (s.lock ≠ .held r → wdReady inp s r = false ∧ rdValid inp s r = false)

/-- The flag pins show in READY what IS_EMPTY and IS_FULL answer (R193). -/
def Obligations.FlagPinsShowFlags : Prop :=
  ∀ s : State,
    s.life = .ready →
    emptyPin s = s.empty ∧ fullPin s = s.full ∧
    (∃ t, exec .isEmpty s = .next t ∧
      t.slot s.turn = .answered (s.slotWord s.turn) ⟨.ok, boolVal (emptyPin s), []⟩) ∧
    (∃ t, exec .isFull s = .next t ∧
      t.slot s.turn = .answered (s.slotWord s.turn) ⟨.ok, boolVal (fullPin s), []⟩)

/-- Broken duties of the requesters (R270 H2, H9). A second issue, and at the port a command presented while one
executes or its response is being given, or a waiting command that is withdrawn or changed, are outside the protocol,
and the model refuses them (R38, R183, R184, U18, log 15). A command issued, or presented at the port, while another
requester's INIT or RELEASE is in flight, and an INIT or a RELEASE while another requester has anything in flight, are
the fault of a breach of quiescence (R67, U2, U3, log 7). -/
def Obligations.SecondCommandRefused : Prop :=
  (∀ (s : State) (r w : Nat) (data : List Byte) (rest : List Event),
    s.script = .issue r w data :: rest → s.life ≠ .fatal → r < s.params.nReq →
    (s.slot r ≠ .idle → step s = .refused .portProtocol) ∧
    (s.slot r = .idle →
      ((∃ r', r' ≠ r ∧ (s.slot r').needsQuiet s.params.width = true) ∨
        (wordNeedsQuiet s.params.width w = true ∧ ∃ r', r' ≠ r ∧ s.slot r' ≠ .idle)) →
      step s = .fault .notQuiescent)) ∧
  (∀ (inp : PortIn) (s : State) (r : Nat),
    inp.rst = false → s.life ≠ .fatal → r < s.params.nReq →
    ((inp.req r).cmdValid = true →
      ((∃ w bs, s.slot r = .executing w bs) ∨ (∃ w rsp, s.slot r = .answered w rsp)) →
      clkEdge inp s = .refused .portProtocol) ∧
    (∀ w, s.slot r = .presented w →
      ((inp.req r).cmdValid = false ∨ wireWord s.params.width (inp.req r).cmdWord ≠ w) →
      clkEdge inp s = .refused .portProtocol)) ∧
  (∀ (s : State) (r word : Nat),
    s.life ≠ .fatal → r < s.params.nReq → s.slot r = .idle → (∀ r' w, s.slot r' ≠ .presented w) →
    ((∃ r', r' ≠ r ∧ (s.slot r').needsQuiet s.params.width = true) ∨
      (wordNeedsQuiet s.params.width word = true ∧ ∃ r', r' ≠ r ∧ s.slot r' ≠ .idle)) →
    clkEdge (soloInput r (presenting word)) s = .fault .notQuiescent)

/-! ### The gray-code option -/

/-- Gray decoding (R212): the top bit stays, every other bit is the exclusive OR of its own and the next decoded bit;
decoding undoes encoding. -/
def Obligations.UngrayOfGray : Prop :=
  ∀ W : Nat, 0 < W →
    (∀ g, g < 2 ^ W → ungray W g < 2 ^ W ∧ (ungray W g).testBit (W - 1) = g.testBit (W - 1) ∧
      ∀ i, i < W - 1 → (ungray W g).testBit i = (g.testBit i ^^ (ungray W g).testBit (i + 1))) ∧
    ∀ b, b < 2 ^ W → ungray W (gray b) = b

/-- Gray encoding (R211): the top bit stays, every other bit is the exclusive OR of its own and the next bit; values
that differ by 1 have codes that differ in exactly one bit, the wrap included. -/
def Obligations.GrayUnitStep : Prop :=
  ∀ W b : Nat, 0 < W → b < 2 ^ W →
    gray b < 2 ^ W ∧ (gray b).testBit (W - 1) = b.testBit (W - 1) ∧
    (∀ i, i < W - 1 → (gray b).testBit i = (b.testBit i ^^ b.testBit (i + 1))) ∧
    ∃ k, k < W ∧ gray b ^^^ gray (wadd W b 1) = 2 ^ k

/-- What a first synchroniser stage captures around a unit step is one of the two codes (R216 case b; DEDUCED, log
18). -/
def Obligations.CaptureOfUnitStep : Prop :=
  ∀ W b free : Nat, 0 < W → b < 2 ^ W →
    captured free (gray b) (gray (wadd W b 1)) = gray b ∨
    captured free (gray b) (gray (wadd W b 1)) = gray (wadd W b 1)

/-- Every step keeps the gray registers at the code of the cursors (R213), and the chains as the edges of `oclk` since
the last change have left them (the model's bookkeeping, log 18, 19). -/
def Obligations.StepKeepsGrayAndChains : Prop :=
  ∀ s t : State, grayInv s → syncInv s → step s = .next t → grayInv t ∧ syncInv t

/-- The settled case (R216 a): nothing has changed for `SYNC_STAGES + 1` periods of `oclk` and `life = READY`: the
remote flags are the flags, and they are what the remote observer reads (R218; the count of periods is log 19). And an
edge of `oclk` (R214, R219): each chain shifts by one, its first stage takes for each bit the present or the earlier
value of the gray register (log 18); with `orst` every flip-flop becomes 0; nothing of the block changes. -/
def Obligations.SettledRemoteFlags : Prop :=
  (∀ s : State,
    s.params.asyncFlags = true → 1 ≤ s.params.syncStages → widthInv s → grayInv s → syncInv s → s.life = .ready →
    s.settled = true →
    emptyO s = s.empty ∧ fullO s = s.full ∧
    ∀ rest, s.script = .observe :: rest →
      ∃ t, step s = .next t ∧ t.remoteSeen = some (s.empty, s.full) ∧ sameCursors t s ∧ sameControl t s ∧
        t.storage = s.storage ∧ t.slots = s.slots ∧ sameSequencer t s) ∧
  (∀ (s : State) (orst : Bool) (rest : List Event),
    s.params.asyncFlags = true → s.life ≠ .fatal → s.script = .oedge orst :: rest →
    ∃ t x y, step s = .next t ∧ t.wc = s.wc ∧ t.rc = s.rc ∧ t.cap = s.cap ∧ sameControl t s ∧
      t.storage = s.storage ∧ t.slots = s.slots ∧ sameSequencer t s ∧
      t.async.wcG = s.async.wcG ∧ t.async.rcG = s.async.rcG ∧
      (orst = true → t.async.wcChain = List.replicate s.async.wcChain.length 0 ∧
        t.async.rcChain = List.replicate s.async.rcChain.length 0) ∧
      (orst = false → t.async.wcChain = (x :: s.async.wcChain).take s.async.wcChain.length ∧
        t.async.rcChain = (y :: s.async.rcChain).take s.async.rcChain.length ∧
        (∀ i, x.testBit i = s.async.wcG.testBit i ∨ x.testBit i = s.async.wcGOld.testBit i) ∧
        ∀ i, y.testBit i = s.async.rcG.testBit i ∨ y.testBit i = s.async.rcGOld.testBit i))

/-- The option cannot change the result of any operation (R218): with other registers of the option, and with the
option built or not, an operation does the same to everything else. -/
def Obligations.OptionChangesNoResult : Prop :=
  ∀ (i : Instr) (s t : State) (on : Bool) (a : AsyncRegs),
    exec i s = .next t →
    ∃ b, exec i { s with params := { s.params with asyncFlags := on }, async := a } =
      .next { t with params := { t.params with asyncFlags := on }, async := b }
end

