-- ==== Sys2Proof/Laws/State.lean ====
section
/-! SUPPORT. One lemma per field per update of the state: no later proof unfolds a record update. -/

namespace Sys2Proof.Machine

section
variable (s : State)

/-! `commitCursors` -/
@[simp] theorem commitCursors_params (w r : Nat) (u : Bool) : (s.commitCursors w r u).params = s.params := rfl
@[simp] theorem commitCursors_wc (w r : Nat) (u : Bool) : (s.commitCursors w r u).wc = w := rfl
@[simp] theorem commitCursors_rc (w r : Nat) (u : Bool) : (s.commitCursors w r u).rc = r := rfl
@[simp] theorem commitCursors_cap (w r : Nat) (u : Bool) : (s.commitCursors w r u).cap = s.cap := rfl
@[simp] theorem commitCursors_storage (w r : Nat) (u : Bool) : (s.commitCursors w r u).storage = s.storage := rfl
@[simp] theorem commitCursors_life (w r : Nat) (u : Bool) : (s.commitCursors w r u).life = s.life := rfl
@[simp] theorem commitCursors_lock (w r : Nat) (u : Bool) : (s.commitCursors w r u).lock = s.lock := rfl
@[simp] theorem commitCursors_fatal (w r : Nat) (u : Bool) : (s.commitCursors w r u).fatal = s.fatal := rfl
@[simp] theorem commitCursors_slots (w r : Nat) (u : Bool) : (s.commitCursors w r u).slots = s.slots := rfl
@[simp] theorem commitCursors_curOp (w r : Nat) (u : Bool) : (s.commitCursors w r u).curOp = s.curOp := rfl
@[simp] theorem commitCursors_curArg (w r : Nat) (u : Bool) : (s.commitCursors w r u).curArg = s.curArg := rfl
@[simp] theorem commitCursors_curN (w r : Nat) (u : Bool) : (s.commitCursors w r u).curN = s.curN := rfl
@[simp] theorem commitCursors_beat (w r : Nat) (u : Bool) : (s.commitCursors w r u).beat = s.beat := rfl
@[simp] theorem commitCursors_phase (w r : Nat) (u : Bool) : (s.commitCursors w r u).phase = s.phase := rfl
@[simp] theorem commitCursors_async (w r : Nat) (u : Bool) : (s.commitCursors w r u).async = exported s.params s.async s.wc s.rc w r false u := rfl
@[simp] theorem commitCursors_remoteSeen (w r : Nat) (u : Bool) : (s.commitCursors w r u).remoteSeen = s.remoteSeen := rfl
@[simp] theorem commitCursors_script (w r : Nat) (u : Bool) : (s.commitCursors w r u).script = s.script := rfl
@[simp] theorem commitCursors_turn (w r : Nat) (u : Bool) : (s.commitCursors w r u).turn = s.turn := rfl
@[simp] theorem commitCursors_draws (w r : Nat) (u : Bool) : (s.commitCursors w r u).draws = s.draws := rfl

/-! `initCommit` -/
@[simp] theorem initCommit_params (c : Nat) : (s.initCommit c).params = s.params := rfl
@[simp] theorem initCommit_wc (c : Nat) : (s.initCommit c).wc = 0 := rfl
@[simp] theorem initCommit_rc (c : Nat) : (s.initCommit c).rc = 0 := rfl
@[simp] theorem initCommit_cap (c : Nat) : (s.initCommit c).cap = c := rfl
@[simp] theorem initCommit_storage (c : Nat) : (s.initCommit c).storage = [] := rfl
@[simp] theorem initCommit_life (c : Nat) : (s.initCommit c).life = .ready := rfl
@[simp] theorem initCommit_lock (c : Nat) : (s.initCommit c).lock = .free := rfl
@[simp] theorem initCommit_fatal (c : Nat) : (s.initCommit c).fatal = s.fatal := rfl
@[simp] theorem initCommit_slots (c : Nat) : (s.initCommit c).slots = s.slots := rfl
@[simp] theorem initCommit_curOp (c : Nat) : (s.initCommit c).curOp = s.curOp := rfl
@[simp] theorem initCommit_curArg (c : Nat) : (s.initCommit c).curArg = s.curArg := rfl
@[simp] theorem initCommit_curN (c : Nat) : (s.initCommit c).curN = s.curN := rfl
@[simp] theorem initCommit_beat (c : Nat) : (s.initCommit c).beat = s.beat := rfl
@[simp] theorem initCommit_phase (c : Nat) : (s.initCommit c).phase = s.phase := rfl
@[simp] theorem initCommit_async (c : Nat) : (s.initCommit c).async = exported s.params s.async s.wc s.rc 0 0 (c != s.cap) false := rfl
@[simp] theorem initCommit_remoteSeen (c : Nat) : (s.initCommit c).remoteSeen = s.remoteSeen := rfl
@[simp] theorem initCommit_script (c : Nat) : (s.initCommit c).script = s.script := rfl
@[simp] theorem initCommit_turn (c : Nat) : (s.initCommit c).turn = s.turn := rfl
@[simp] theorem initCommit_draws (c : Nat) : (s.initCommit c).draws = s.draws := rfl

/-! `releaseCommit` -/
@[simp] theorem releaseCommit_params : s.releaseCommit.params = s.params := rfl
@[simp] theorem releaseCommit_wc : s.releaseCommit.wc = s.wc := rfl
@[simp] theorem releaseCommit_rc : s.releaseCommit.rc = s.rc := rfl
@[simp] theorem releaseCommit_cap : s.releaseCommit.cap = s.cap := rfl
@[simp] theorem releaseCommit_storage : s.releaseCommit.storage = [] := rfl
@[simp] theorem releaseCommit_life : s.releaseCommit.life = .released := rfl
@[simp] theorem releaseCommit_lock : s.releaseCommit.lock = s.lock := rfl
@[simp] theorem releaseCommit_fatal : s.releaseCommit.fatal = s.fatal := rfl
@[simp] theorem releaseCommit_slots : s.releaseCommit.slots = s.slots := rfl
@[simp] theorem releaseCommit_curOp : s.releaseCommit.curOp = s.curOp := rfl
@[simp] theorem releaseCommit_curArg : s.releaseCommit.curArg = s.curArg := rfl
@[simp] theorem releaseCommit_curN : s.releaseCommit.curN = s.curN := rfl
@[simp] theorem releaseCommit_beat : s.releaseCommit.beat = s.beat := rfl
@[simp] theorem releaseCommit_phase : s.releaseCommit.phase = s.phase := rfl
@[simp] theorem releaseCommit_async : s.releaseCommit.async = s.async := rfl
@[simp] theorem releaseCommit_remoteSeen : s.releaseCommit.remoteSeen = s.remoteSeen := rfl
@[simp] theorem releaseCommit_script : s.releaseCommit.script = s.script := rfl
@[simp] theorem releaseCommit_turn : s.releaseCommit.turn = s.turn := rfl
@[simp] theorem releaseCommit_draws : s.releaseCommit.draws = s.draws := rfl

/-! `acquire` -/
@[simp] theorem acquire_params (r : Nat) : (s.acquire r).params = s.params := rfl
@[simp] theorem acquire_wc (r : Nat) : (s.acquire r).wc = s.wc := rfl
@[simp] theorem acquire_rc (r : Nat) : (s.acquire r).rc = s.rc := rfl
@[simp] theorem acquire_cap (r : Nat) : (s.acquire r).cap = s.cap := rfl
@[simp] theorem acquire_storage (r : Nat) : (s.acquire r).storage = s.storage := rfl
@[simp] theorem acquire_life (r : Nat) : (s.acquire r).life = s.life := rfl
@[simp] theorem acquire_lock (r : Nat) : (s.acquire r).lock = .held r := rfl
@[simp] theorem acquire_fatal (r : Nat) : (s.acquire r).fatal = s.fatal := rfl
@[simp] theorem acquire_slots (r : Nat) : (s.acquire r).slots = s.slots := rfl
@[simp] theorem acquire_curOp (r : Nat) : (s.acquire r).curOp = s.curOp := rfl
@[simp] theorem acquire_curArg (r : Nat) : (s.acquire r).curArg = s.curArg := rfl
@[simp] theorem acquire_curN (r : Nat) : (s.acquire r).curN = s.curN := rfl
@[simp] theorem acquire_beat (r : Nat) : (s.acquire r).beat = s.beat := rfl
@[simp] theorem acquire_phase (r : Nat) : (s.acquire r).phase = s.phase := rfl
@[simp] theorem acquire_async (r : Nat) : (s.acquire r).async = s.async := rfl
@[simp] theorem acquire_remoteSeen (r : Nat) : (s.acquire r).remoteSeen = s.remoteSeen := rfl
@[simp] theorem acquire_script (r : Nat) : (s.acquire r).script = s.script := rfl
@[simp] theorem acquire_turn (r : Nat) : (s.acquire r).turn = s.turn := rfl
@[simp] theorem acquire_draws (r : Nat) : (s.acquire r).draws = s.draws := rfl

/-! `releaseLock` -/
@[simp] theorem releaseLock_params : s.releaseLock.params = s.params := rfl
@[simp] theorem releaseLock_wc : s.releaseLock.wc = s.wc := rfl
@[simp] theorem releaseLock_rc : s.releaseLock.rc = s.rc := rfl
@[simp] theorem releaseLock_cap : s.releaseLock.cap = s.cap := rfl
@[simp] theorem releaseLock_storage : s.releaseLock.storage = s.storage := rfl
@[simp] theorem releaseLock_life : s.releaseLock.life = s.life := rfl
@[simp] theorem releaseLock_lock : s.releaseLock.lock = .free := rfl
@[simp] theorem releaseLock_fatal : s.releaseLock.fatal = s.fatal := rfl
@[simp] theorem releaseLock_slots : s.releaseLock.slots = s.slots := rfl
@[simp] theorem releaseLock_curOp : s.releaseLock.curOp = s.curOp := rfl
@[simp] theorem releaseLock_curArg : s.releaseLock.curArg = s.curArg := rfl
@[simp] theorem releaseLock_curN : s.releaseLock.curN = s.curN := rfl
@[simp] theorem releaseLock_beat : s.releaseLock.beat = s.beat := rfl
@[simp] theorem releaseLock_phase : s.releaseLock.phase = s.phase := rfl
@[simp] theorem releaseLock_async : s.releaseLock.async = s.async := rfl
@[simp] theorem releaseLock_remoteSeen : s.releaseLock.remoteSeen = s.remoteSeen := rfl
@[simp] theorem releaseLock_script : s.releaseLock.script = s.script := rfl
@[simp] theorem releaseLock_turn : s.releaseLock.turn = s.turn := rfl
@[simp] theorem releaseLock_draws : s.releaseLock.draws = s.draws := rfl

/-! `answer` -/
@[simp] theorem answer_params (r : Nat) (st : Status) (v : Nat) (bs : List Byte) : (s.answer r st v bs).params = s.params := rfl
@[simp] theorem answer_wc (r : Nat) (st : Status) (v : Nat) (bs : List Byte) : (s.answer r st v bs).wc = s.wc := rfl
@[simp] theorem answer_rc (r : Nat) (st : Status) (v : Nat) (bs : List Byte) : (s.answer r st v bs).rc = s.rc := rfl
@[simp] theorem answer_cap (r : Nat) (st : Status) (v : Nat) (bs : List Byte) : (s.answer r st v bs).cap = s.cap := rfl
@[simp] theorem answer_storage (r : Nat) (st : Status) (v : Nat) (bs : List Byte) : (s.answer r st v bs).storage = s.storage := rfl
@[simp] theorem answer_life (r : Nat) (st : Status) (v : Nat) (bs : List Byte) : (s.answer r st v bs).life = s.life := rfl
@[simp] theorem answer_lock (r : Nat) (st : Status) (v : Nat) (bs : List Byte) : (s.answer r st v bs).lock = s.lock := rfl
@[simp] theorem answer_fatal (r : Nat) (st : Status) (v : Nat) (bs : List Byte) : (s.answer r st v bs).fatal = s.fatal := rfl
@[simp] theorem answer_slots (r : Nat) (st : Status) (v : Nat) (bs : List Byte) : (s.answer r st v bs).slots = setSlot s.slots r (.answered (s.slotWord r) ⟨st, v, bs⟩) := rfl
@[simp] theorem answer_curOp (r : Nat) (st : Status) (v : Nat) (bs : List Byte) : (s.answer r st v bs).curOp = s.curOp := rfl
@[simp] theorem answer_curArg (r : Nat) (st : Status) (v : Nat) (bs : List Byte) : (s.answer r st v bs).curArg = s.curArg := rfl
@[simp] theorem answer_curN (r : Nat) (st : Status) (v : Nat) (bs : List Byte) : (s.answer r st v bs).curN = s.curN := rfl
@[simp] theorem answer_beat (r : Nat) (st : Status) (v : Nat) (bs : List Byte) : (s.answer r st v bs).beat = s.beat := rfl
@[simp] theorem answer_phase (r : Nat) (st : Status) (v : Nat) (bs : List Byte) : (s.answer r st v bs).phase = s.phase := rfl
@[simp] theorem answer_async (r : Nat) (st : Status) (v : Nat) (bs : List Byte) : (s.answer r st v bs).async = s.async := rfl
@[simp] theorem answer_remoteSeen (r : Nat) (st : Status) (v : Nat) (bs : List Byte) : (s.answer r st v bs).remoteSeen = s.remoteSeen := rfl
@[simp] theorem answer_script (r : Nat) (st : Status) (v : Nat) (bs : List Byte) : (s.answer r st v bs).script = s.script := rfl
@[simp] theorem answer_turn (r : Nat) (st : Status) (v : Nat) (bs : List Byte) : (s.answer r st v bs).turn = s.turn := rfl
@[simp] theorem answer_draws (r : Nat) (st : Status) (v : Nat) (bs : List Byte) : (s.answer r st v bs).draws = s.draws := rfl

/-! `raiseFatal` -/
@[simp] theorem raiseFatal_params (r : Nat) : (s.raiseFatal r).params = s.params := rfl
@[simp] theorem raiseFatal_wc (r : Nat) : (s.raiseFatal r).wc = s.wc := rfl
@[simp] theorem raiseFatal_rc (r : Nat) : (s.raiseFatal r).rc = s.rc := rfl
@[simp] theorem raiseFatal_cap (r : Nat) : (s.raiseFatal r).cap = s.cap := rfl
@[simp] theorem raiseFatal_storage (r : Nat) : (s.raiseFatal r).storage = s.storage := rfl
@[simp] theorem raiseFatal_life (r : Nat) : (s.raiseFatal r).life = .fatal := rfl
@[simp] theorem raiseFatal_lock (r : Nat) : (s.raiseFatal r).lock = s.lock := rfl
@[simp] theorem raiseFatal_fatal (r : Nat) : (s.raiseFatal r).fatal = true := rfl
@[simp] theorem raiseFatal_slots (r : Nat) : (s.raiseFatal r).slots = setSlot s.slots r .unanswered := rfl
@[simp] theorem raiseFatal_curOp (r : Nat) : (s.raiseFatal r).curOp = s.curOp := rfl
@[simp] theorem raiseFatal_curArg (r : Nat) : (s.raiseFatal r).curArg = s.curArg := rfl
@[simp] theorem raiseFatal_curN (r : Nat) : (s.raiseFatal r).curN = s.curN := rfl
@[simp] theorem raiseFatal_beat (r : Nat) : (s.raiseFatal r).beat = s.beat := rfl
@[simp] theorem raiseFatal_phase (r : Nat) : (s.raiseFatal r).phase = s.phase := rfl
@[simp] theorem raiseFatal_async (r : Nat) : (s.raiseFatal r).async = s.async := rfl
@[simp] theorem raiseFatal_remoteSeen (r : Nat) : (s.raiseFatal r).remoteSeen = s.remoteSeen := rfl
@[simp] theorem raiseFatal_script (r : Nat) : (s.raiseFatal r).script = s.script := rfl
@[simp] theorem raiseFatal_turn (r : Nat) : (s.raiseFatal r).turn = s.turn := rfl
@[simp] theorem raiseFatal_draws (r : Nat) : (s.raiseFatal r).draws = s.draws := rfl

/-! `hardwareReset` -/
@[simp] theorem hardwareReset_params : s.hardwareReset.params = s.params := rfl
@[simp] theorem hardwareReset_wc : s.hardwareReset.wc = 0 := rfl
@[simp] theorem hardwareReset_rc : s.hardwareReset.rc = 0 := rfl
@[simp] theorem hardwareReset_cap : s.hardwareReset.cap = 0 := rfl
@[simp] theorem hardwareReset_storage : s.hardwareReset.storage = [] := rfl
@[simp] theorem hardwareReset_life : s.hardwareReset.life = .uninit := rfl
@[simp] theorem hardwareReset_lock : s.hardwareReset.lock = .free := rfl
@[simp] theorem hardwareReset_fatal : s.hardwareReset.fatal = false := rfl
@[simp] theorem hardwareReset_slots : s.hardwareReset.slots = [] := rfl
@[simp] theorem hardwareReset_curOp : s.hardwareReset.curOp = s.curOp := rfl
@[simp] theorem hardwareReset_curArg : s.hardwareReset.curArg = s.curArg := rfl
@[simp] theorem hardwareReset_curN : s.hardwareReset.curN = s.curN := rfl
@[simp] theorem hardwareReset_beat : s.hardwareReset.beat = s.beat := rfl
@[simp] theorem hardwareReset_phase : s.hardwareReset.phase = s.phase := rfl
@[simp] theorem hardwareReset_async : s.hardwareReset.async = exported s.params s.async s.wc s.rc 0 0 (s.cap != 0) false := rfl
@[simp] theorem hardwareReset_remoteSeen : s.hardwareReset.remoteSeen = s.remoteSeen := rfl
@[simp] theorem hardwareReset_script : s.hardwareReset.script = s.script := rfl
@[simp] theorem hardwareReset_turn : s.hardwareReset.turn = s.turn := rfl
@[simp] theorem hardwareReset_draws : s.hardwareReset.draws = s.draws := rfl

/-! `drawn` -/
@[simp] theorem drawn_params : s.drawn.params = s.params := rfl
@[simp] theorem drawn_wc : s.drawn.wc = s.wc := rfl
@[simp] theorem drawn_rc : s.drawn.rc = s.rc := rfl
@[simp] theorem drawn_cap : s.drawn.cap = s.cap := rfl
@[simp] theorem drawn_storage : s.drawn.storage = s.storage := rfl
@[simp] theorem drawn_life : s.drawn.life = s.life := rfl
@[simp] theorem drawn_lock : s.drawn.lock = s.lock := rfl
@[simp] theorem drawn_fatal : s.drawn.fatal = s.fatal := rfl
@[simp] theorem drawn_slots : s.drawn.slots = s.slots := rfl
@[simp] theorem drawn_curOp : s.drawn.curOp = s.curOp := rfl
@[simp] theorem drawn_curArg : s.drawn.curArg = s.curArg := rfl
@[simp] theorem drawn_curN : s.drawn.curN = s.curN := rfl
@[simp] theorem drawn_beat : s.drawn.beat = s.beat := rfl
@[simp] theorem drawn_phase : s.drawn.phase = s.phase := rfl
@[simp] theorem drawn_async : s.drawn.async = s.async := rfl
@[simp] theorem drawn_remoteSeen : s.drawn.remoteSeen = s.remoteSeen := rfl
@[simp] theorem drawn_script : s.drawn.script = s.script := rfl
@[simp] theorem drawn_turn : s.drawn.turn = s.turn := rfl
@[simp] theorem drawn_draws : s.drawn.draws = s.draws + 1 := rfl

/-! `grantEdge` -/
@[simp] theorem grantEdge_params (g w : Nat) : (grantEdge g w s).params = s.params := rfl
@[simp] theorem grantEdge_wc (g w : Nat) : (grantEdge g w s).wc = s.wc := rfl
@[simp] theorem grantEdge_rc (g w : Nat) : (grantEdge g w s).rc = s.rc := rfl
@[simp] theorem grantEdge_cap (g w : Nat) : (grantEdge g w s).cap = s.cap := rfl
@[simp] theorem grantEdge_storage (g w : Nat) : (grantEdge g w s).storage = s.storage := rfl
@[simp] theorem grantEdge_life (g w : Nat) : (grantEdge g w s).life = s.life := rfl
@[simp] theorem grantEdge_lock (g w : Nat) : (grantEdge g w s).lock = .held g := rfl
@[simp] theorem grantEdge_fatal (g w : Nat) : (grantEdge g w s).fatal = s.fatal := rfl
@[simp] theorem grantEdge_slots (g w : Nat) : (grantEdge g w s).slots = setSlot s.slots g (.executing (wireWord s.params.width w) []) := rfl
@[simp] theorem grantEdge_curOp (g w : Nat) : (grantEdge g w s).curOp = opField s.params.width w := rfl
@[simp] theorem grantEdge_curArg (g w : Nat) : (grantEdge g w s).curArg = argField s.params.width w := rfl
@[simp] theorem grantEdge_curN (g w : Nat) : (grantEdge g w s).curN = s.curN := rfl
@[simp] theorem grantEdge_beat (g w : Nat) : (grantEdge g w s).beat = 0 := rfl
@[simp] theorem grantEdge_phase (g w : Nat) : (grantEdge g w s).phase = .check := rfl
@[simp] theorem grantEdge_async (g w : Nat) : (grantEdge g w s).async = s.async := rfl
@[simp] theorem grantEdge_remoteSeen (g w : Nat) : (grantEdge g w s).remoteSeen = s.remoteSeen := rfl
@[simp] theorem grantEdge_script (g w : Nat) : (grantEdge g w s).script = s.script := rfl
@[simp] theorem grantEdge_turn (g w : Nat) : (grantEdge g w s).turn = s.turn := rfl
@[simp] theorem grantEdge_draws (g w : Nat) : (grantEdge g w s).draws = s.draws := rfl

/-! `latchN` -/
@[simp] theorem latchN_params (n : Nat) : (s.latchN n).params = s.params := rfl
@[simp] theorem latchN_wc (n : Nat) : (s.latchN n).wc = s.wc := rfl
@[simp] theorem latchN_rc (n : Nat) : (s.latchN n).rc = s.rc := rfl
@[simp] theorem latchN_cap (n : Nat) : (s.latchN n).cap = s.cap := rfl
@[simp] theorem latchN_storage (n : Nat) : (s.latchN n).storage = s.storage := rfl
@[simp] theorem latchN_life (n : Nat) : (s.latchN n).life = s.life := rfl
@[simp] theorem latchN_lock (n : Nat) : (s.latchN n).lock = s.lock := rfl
@[simp] theorem latchN_fatal (n : Nat) : (s.latchN n).fatal = s.fatal := rfl
@[simp] theorem latchN_slots (n : Nat) : (s.latchN n).slots = s.slots := rfl
@[simp] theorem latchN_curOp (n : Nat) : (s.latchN n).curOp = s.curOp := rfl
@[simp] theorem latchN_curArg (n : Nat) : (s.latchN n).curArg = s.curArg := rfl
@[simp] theorem latchN_curN (n : Nat) : (s.latchN n).curN = n := rfl
@[simp] theorem latchN_beat (n : Nat) : (s.latchN n).beat = s.beat := rfl
@[simp] theorem latchN_phase (n : Nat) : (s.latchN n).phase = s.phase := rfl
@[simp] theorem latchN_async (n : Nat) : (s.latchN n).async = s.async := rfl
@[simp] theorem latchN_remoteSeen (n : Nat) : (s.latchN n).remoteSeen = s.remoteSeen := rfl
@[simp] theorem latchN_script (n : Nat) : (s.latchN n).script = s.script := rfl
@[simp] theorem latchN_turn (n : Nat) : (s.latchN n).turn = s.turn := rfl
@[simp] theorem latchN_draws (n : Nat) : (s.latchN n).draws = s.draws := rfl

/-! `beginData` -/
@[simp] theorem beginData_params : s.beginData.params = s.params := rfl
@[simp] theorem beginData_wc : s.beginData.wc = s.wc := rfl
@[simp] theorem beginData_rc : s.beginData.rc = s.rc := rfl
@[simp] theorem beginData_cap : s.beginData.cap = s.cap := rfl
@[simp] theorem beginData_storage : s.beginData.storage = s.storage := rfl
@[simp] theorem beginData_life : s.beginData.life = s.life := rfl
@[simp] theorem beginData_lock : s.beginData.lock = s.lock := rfl
@[simp] theorem beginData_fatal : s.beginData.fatal = s.fatal := rfl
@[simp] theorem beginData_slots : s.beginData.slots = s.slots := rfl
@[simp] theorem beginData_curOp : s.beginData.curOp = s.curOp := rfl
@[simp] theorem beginData_curArg : s.beginData.curArg = s.curArg := rfl
@[simp] theorem beginData_curN : s.beginData.curN = s.curN := rfl
@[simp] theorem beginData_beat : s.beginData.beat = s.beat := rfl
@[simp] theorem beginData_phase : s.beginData.phase = .data := rfl
@[simp] theorem beginData_async : s.beginData.async = s.async := rfl
@[simp] theorem beginData_remoteSeen : s.beginData.remoteSeen = s.remoteSeen := rfl
@[simp] theorem beginData_script : s.beginData.script = s.script := rfl
@[simp] theorem beginData_turn : s.beginData.turn = s.turn := rfl
@[simp] theorem beginData_draws : s.beginData.draws = s.draws := rfl

/-! `beatDone` -/
@[simp] theorem beatDone_params (g : Nat) (b : Byte) : (s.beatDone g b).params = s.params := rfl
@[simp] theorem beatDone_wc (g : Nat) (b : Byte) : (s.beatDone g b).wc = s.wc := rfl
@[simp] theorem beatDone_rc (g : Nat) (b : Byte) : (s.beatDone g b).rc = s.rc := rfl
@[simp] theorem beatDone_cap (g : Nat) (b : Byte) : (s.beatDone g b).cap = s.cap := rfl
@[simp] theorem beatDone_storage (g : Nat) (b : Byte) : (s.beatDone g b).storage = s.storage := rfl
@[simp] theorem beatDone_life (g : Nat) (b : Byte) : (s.beatDone g b).life = s.life := rfl
@[simp] theorem beatDone_lock (g : Nat) (b : Byte) : (s.beatDone g b).lock = s.lock := rfl
@[simp] theorem beatDone_fatal (g : Nat) (b : Byte) : (s.beatDone g b).fatal = s.fatal := rfl
@[simp] theorem beatDone_slots (g : Nat) (b : Byte) : (s.beatDone g b).slots = setSlot s.slots g (.executing (s.slotWord g) (s.moved g ++ [b])) := rfl
@[simp] theorem beatDone_curOp (g : Nat) (b : Byte) : (s.beatDone g b).curOp = s.curOp := rfl
@[simp] theorem beatDone_curArg (g : Nat) (b : Byte) : (s.beatDone g b).curArg = s.curArg := rfl
@[simp] theorem beatDone_curN (g : Nat) (b : Byte) : (s.beatDone g b).curN = s.curN := rfl
@[simp] theorem beatDone_beat (g : Nat) (b : Byte) : (s.beatDone g b).beat = wadd s.params.width s.beat 1 := rfl
@[simp] theorem beatDone_phase (g : Nat) (b : Byte) : (s.beatDone g b).phase = s.phase := rfl
@[simp] theorem beatDone_async (g : Nat) (b : Byte) : (s.beatDone g b).async = s.async := rfl
@[simp] theorem beatDone_remoteSeen (g : Nat) (b : Byte) : (s.beatDone g b).remoteSeen = s.remoteSeen := rfl
@[simp] theorem beatDone_script (g : Nat) (b : Byte) : (s.beatDone g b).script = s.script := rfl
@[simp] theorem beatDone_turn (g : Nat) (b : Byte) : (s.beatDone g b).turn = s.turn := rfl
@[simp] theorem beatDone_draws (g : Nat) (b : Byte) : (s.beatDone g b).draws = s.draws := rfl

/-! `issuedBy` -/
@[simp] theorem issuedBy_params (r w : Nat) (d : Option (List Byte)) : (issuedBy s r w d).params = s.params := rfl
@[simp] theorem issuedBy_wc (r w : Nat) (d : Option (List Byte)) : (issuedBy s r w d).wc = s.wc := rfl
@[simp] theorem issuedBy_rc (r w : Nat) (d : Option (List Byte)) : (issuedBy s r w d).rc = s.rc := rfl
@[simp] theorem issuedBy_cap (r w : Nat) (d : Option (List Byte)) : (issuedBy s r w d).cap = s.cap := rfl
@[simp] theorem issuedBy_storage (r w : Nat) (d : Option (List Byte)) : (issuedBy s r w d).storage = s.storage := rfl
@[simp] theorem issuedBy_life (r w : Nat) (d : Option (List Byte)) : (issuedBy s r w d).life = s.life := rfl
@[simp] theorem issuedBy_lock (r w : Nat) (d : Option (List Byte)) : (issuedBy s r w d).lock = s.lock := rfl
@[simp] theorem issuedBy_fatal (r w : Nat) (d : Option (List Byte)) : (issuedBy s r w d).fatal = s.fatal := rfl
@[simp] theorem issuedBy_slots (r w : Nat) (d : Option (List Byte)) : (issuedBy s r w d).slots = setSlot s.slots r (.issued ⟨w, d⟩) := rfl
@[simp] theorem issuedBy_curOp (r w : Nat) (d : Option (List Byte)) : (issuedBy s r w d).curOp = s.curOp := rfl
@[simp] theorem issuedBy_curArg (r w : Nat) (d : Option (List Byte)) : (issuedBy s r w d).curArg = s.curArg := rfl
@[simp] theorem issuedBy_curN (r w : Nat) (d : Option (List Byte)) : (issuedBy s r w d).curN = s.curN := rfl
@[simp] theorem issuedBy_beat (r w : Nat) (d : Option (List Byte)) : (issuedBy s r w d).beat = s.beat := rfl
@[simp] theorem issuedBy_phase (r w : Nat) (d : Option (List Byte)) : (issuedBy s r w d).phase = s.phase := rfl
@[simp] theorem issuedBy_async (r w : Nat) (d : Option (List Byte)) : (issuedBy s r w d).async = s.async := rfl
@[simp] theorem issuedBy_remoteSeen (r w : Nat) (d : Option (List Byte)) : (issuedBy s r w d).remoteSeen = s.remoteSeen := rfl
@[simp] theorem issuedBy_script (r w : Nat) (d : Option (List Byte)) : (issuedBy s r w d).script = s.script := rfl
@[simp] theorem issuedBy_turn (r w : Nat) (d : Option (List Byte)) : (issuedBy s r w d).turn = r := rfl
@[simp] theorem issuedBy_draws (r w : Nat) (d : Option (List Byte)) : (issuedBy s r w d).draws = s.draws := rfl

end

end Sys2Proof.Machine
end

