-- ==== Sys2Proof/Laws/Slots.lean ====
section
/-! SUPPORT. Reading a slot after writing one; what `anyOther` and quiescence say (10_state.md R38, 20_memory.md R67). -/

namespace Sys2Proof.Machine

theorem slotAt_nil (r : Nat) : slotAt [] r = .idle := by cases r <;> rfl

theorem slotAt_setSlot (xs : List Slot) (r r' : Nat) (x : Slot) :
    slotAt (setSlot xs r x) r' = if r' = r then x else slotAt xs r' := by
  induction xs, r, x using setSlot.induct generalizing r' with
  | case1 x => cases r' <;> simp [setSlot, slotAt]
  | case2 r x ih => cases r' <;> simp [setSlot, slotAt, ih]
  | case3 y xs x => (cases r' <;> simp [setSlot, slotAt])
  | case4 y xs r x ih => cases r' <;> simp [setSlot, slotAt, ih]

@[simp] theorem slotAt_setSlot_same (xs : List Slot) (r : Nat) (x : Slot) : slotAt (setSlot xs r x) r = x := by
  simp [slotAt_setSlot]

theorem slotAt_setSlot_other (xs : List Slot) {r r' : Nat} (x : Slot) (h : r' ≠ r) :
    slotAt (setSlot xs r x) r' = slotAt xs r' := by
  simp [slotAt_setSlot, h]

theorem any_iff_slotAt (p : Slot → Bool) (xs : List Slot) (hidle : p .idle = false) :
    xs.any p = true ↔ ∃ r, p (slotAt xs r) = true := by
  induction xs with
  | nil => simp [slotAt_nil, hidle]
  | cons x xs ih =>
    rw [List.any_cons, Bool.or_eq_true, ih]
    constructor
    · rintro (h | ⟨r, h⟩)
      · exact ⟨0, h⟩
      · exact ⟨r + 1, h⟩
    · rintro ⟨r, h⟩
      cases r with
      | zero => exact .inl h
      | succ r => exact .inr ⟨r, h⟩

/-- What `anyOther` says, for a property idle slots do not have. -/
theorem anyOther_iff (p : Slot → Bool) (hidle : p .idle = false) (r : Nat) (xs : List Slot) :
    anyOther p r xs = true ↔ ∃ r', r' ≠ r ∧ p (slotAt xs r') = true := by
  induction r, xs using anyOther.induct with
  | case1 r => simp [anyOther, slotAt_nil, hidle]
  | case2 x xs =>
    rw [anyOther, any_iff_slotAt p xs hidle]
    constructor
    · rintro ⟨r, h⟩
      exact ⟨r + 1, by simp, h⟩
    · rintro ⟨r, hne, h⟩
      cases r with
      | zero => exact absurd rfl hne
      | succ r => exact ⟨r, h⟩
  | case3 x xs r ih =>
    rw [anyOther, Bool.or_eq_true, ih]
    constructor
    · rintro (h | ⟨r', hne, h⟩)
      · exact ⟨0, by simp, h⟩
      · exact ⟨r' + 1, by simpa using hne, h⟩
    · rintro ⟨r', hne, h⟩
      cases r' with
      | zero => exact .inl h
      | succ r' => exact .inr ⟨r', by simpa using hne, h⟩

theorem othersIdle_iff (s : State) (r : Nat) : s.othersIdle r = true ↔ ∀ r', r' ≠ r → s.slot r' = .idle := by
  have h := anyOther_iff (fun x => decide (x ≠ .idle)) (by simp) r s.slots
  rw [State.othersIdle, Bool.not_eq_true', ← Bool.not_eq_true, h]
  simp [State.slot]

/-- What quiescence says (R67). -/
theorem quiescent_iff (s : State) (r : Nat) :
    s.quiescent r = true ↔ (∀ r', r' ≠ r → s.slot r' = .idle) ∧ s.lock = .free := by
  simp [State.quiescent, othersIdle_iff]

/-- What a breach of duty H2 at an issue is (R270). -/
theorem quietBreach_iff (s : State) (r word : Nat) :
    s.quietBreach r word = true ↔
      (∃ r', r' ≠ r ∧ (s.slot r').needsQuiet s.params.width = true) ∨
      (wordNeedsQuiet s.params.width word = true ∧ ∃ r', r' ≠ r ∧ s.slot r' ≠ .idle) := by
  rw [State.quietBreach, Bool.or_eq_true, anyOther_iff _ rfl, Bool.and_eq_true, Bool.not_eq_true',
    ← Bool.not_eq_true, othersIdle_iff]
  simp [State.slot]

theorem slot_answer (s : State) (r r' : Nat) (st : Status) (v : Nat) (bs : List Byte) :
    (s.answer r st v bs).slot r' = if r' = r then .answered (s.slotWord r) ⟨st, v, bs⟩ else s.slot r' := by
  simp [State.slot, slotAt_setSlot]

theorem slot_raiseFatal (s : State) (r r' : Nat) :
    (s.raiseFatal r).slot r' = if r' = r then .unanswered else s.slot r' := by
  simp [State.slot, slotAt_setSlot]

theorem slot_issuedBy (s : State) (r r' w : Nat) (d : Option (List Byte)) :
    (issuedBy s r w d).slot r' = if r' = r then .issued ⟨w, d⟩ else s.slot r' := by
  simp [State.slot, slotAt_setSlot]

theorem slot_grantEdge (s : State) (g r' w : Nat) :
    (grantEdge g w s).slot r' = if r' = g then .executing (wireWord s.params.width w) [] else s.slot r' := by
  simp [State.slot, slotAt_setSlot]

theorem slot_beatDone (s : State) (g r' : Nat) (b : Byte) :
    (s.beatDone g b).slot r' = if r' = g then .executing (s.slotWord g) (s.moved g ++ [b]) else s.slot r' := by
  simp [State.slot, slotAt_setSlot]

@[simp] theorem slot_hardwareReset (s : State) (r : Nat) : s.hardwareReset.slot r = .idle := by
  simp [State.slot, slotAt_nil]

end Sys2Proof.Machine
end

