-- ==== Sys2Proof/Laws/Memory.lean ====
section
/-! SUPPORT. The laws of storage (20_memory.md): a read after a write, the canonical form, what `memWrite` and
`memRead` do. -/

namespace Sys2Proof.Machine

theorem Memory.read_write (m : Memory) (i a : Nat) (x : Byte) :
    (m.write i x).read a = if a = i then some x else m.read a := by
  induction m with
  | nil => simp [Memory.write, Memory.read]
  | cons c m ih =>
    obtain ⟨k, b⟩ := c
    simp only [Memory.write]
    split
    · next h => subst h; simp only [Memory.read]; split <;> simp_all
    · split
      · simp only [Memory.read]
      · next h _ => simp only [Memory.read, ih]; grind

@[simp] theorem Memory.read_write_same (m : Memory) (i : Nat) (x : Byte) : (m.write i x).read i = some x := by
  simp [Memory.read_write]

theorem Memory.read_write_other (m : Memory) {i a : Nat} (x : Byte) (h : a ≠ i) :
    (m.write i x).read a = m.read a := by
  simp [Memory.read_write, h]

theorem Memory.wf_cons (a : Nat) (b : Byte) (m : Memory) :
    Memory.wf ((a, b) :: m) = true ↔ (∀ c ∈ m.head?, a < c.1) ∧ Memory.wf m = true := by
  cases m with
  | nil => simp [Memory.wf]
  | cons c m => obtain ⟨k, y⟩ := c; simp [Memory.wf]

theorem Memory.head_write (m : Memory) (i : Nat) (x : Byte) :
    ∀ c ∈ (m.write i x).head?, c.1 = i ∨ ∃ d ∈ m.head?, c.1 = d.1 := by
  cases m with
  | nil => simp [Memory.write]
  | cons d m =>
    obtain ⟨k, y⟩ := d
    simp only [Memory.write]
    split
    · simp
    · split <;> simp

/-- A write keeps the canonical form. -/
theorem Memory.wf_write {m : Memory} (h : m.wf = true) (i : Nat) (x : Byte) : (m.write i x).wf = true := by
  induction m with
  | nil => rfl
  | cons c m ih =>
    obtain ⟨k, y⟩ := c
    obtain ⟨hlt, hm⟩ := (Memory.wf_cons k y m).1 h
    simp only [Memory.write]
    split
    · next hk => subst hk; exact (Memory.wf_cons _ x m).2 ⟨hlt, hm⟩
    · split
      · next hik => exact (Memory.wf_cons _ x _).2 ⟨by simpa using hik, h⟩
      · next hne hnlt =>
        refine (Memory.wf_cons _ y _).2 ⟨fun c hc => ?_, ih hm⟩
        rcases Memory.head_write m i x c hc with heq | ⟨d, hd, heq⟩
        · omega
        · have := hlt d hd; omega

/-- A write inside the array keeps every address inside it. -/
theorem Memory.within_write {m : Memory} {limit : Nat} (h : m.within limit = true) {i : Nat} (hi : i < limit)
    (x : Byte) : (m.write i x).within limit = true := by
  induction m with
  | nil => simp [Memory.write, Memory.within, hi]
  | cons c m ih =>
    obtain ⟨k, y⟩ := c
    simp only [Memory.within, List.all_cons, Bool.and_eq_true, decide_eq_true_eq] at h ih
    simp only [Memory.write]
    split
    · simp [Memory.within, hi, h.2]
    · split
      · simp [Memory.within, hi, h.1, h.2]
      · simp [Memory.within, h.1, ih h.2]

/-- What `storeAt` can do. -/
theorem storeAt_ok {limit i : Nat} {b : Byte} {m m' : Memory} (h : storeAt limit i b m = .ok m') :
    i < limit ∧ m' = m.write i b := by
  unfold storeAt at h
  split at h
  · next hi => exact ⟨hi, by simpa using h.symm⟩
  · cases h

/-- What `byteAt` can do. -/
theorem byteAt_ok {limit i : Nat} {m : Memory} {b : Byte} (h : byteAt limit i m = .ok b) :
    i < limit ∧ m.read i = some b := by
  unfold byteAt at h
  split at h
  · next hi =>
    split at h
    · next hb => exact ⟨hi, by simp_all⟩
    · cases h
  · cases h

theorem byteAt_of_read {limit i : Nat} {m : Memory} {b : Byte} (hi : i < limit) (hb : m.read i = some b) :
    byteAt limit i m = .ok b := by
  simp [byteAt, hi, hb]

/-- `memWrite` keeps the canonical form and the bounds. -/
theorem memWrite_keeps {w limit mask c i : Nat} {bs : List Byte} {m m' : Memory}
    (h : memWrite w limit mask c i bs m = .ok m') (hw : m.wf = true) (hl : m.within limit = true) :
    m'.wf = true ∧ m'.within limit = true := by
  induction bs generalizing i m with
  | nil => simp only [memWrite, Except.ok.injEq] at h; subst h; exact ⟨hw, hl⟩
  | cons b bs ih =>
    simp only [memWrite] at h
    split at h
    · next m1 h1 =>
      obtain ⟨hi, rfl⟩ := storeAt_ok h1
      exact ih h (Memory.wf_write hw _ _) (Memory.within_write hl hi _)
    · cases h

/-- `memWrite` leaves every byte outside the stored indices as it was. -/
theorem memWrite_frame {w limit mask c i : Nat} {bs : List Byte} {m m' : Memory}
    (h : memWrite w limit mask c i bs m = .ok m') {a : Nat}
    (ha : ∀ j, j < bs.length → a ≠ cellIndex w mask c (i + j)) : m'.read a = m.read a := by
  induction bs generalizing i m with
  | nil => simp only [memWrite, Except.ok.injEq] at h; rw [h]
  | cons b bs ih =>
    simp only [memWrite] at h
    split at h
    · next m1 h1 =>
      obtain ⟨_, rfl⟩ := storeAt_ok h1
      rw [ih h (fun j hj => ?_), Memory.read_write_other _ _ (by simpa using ha 0 (by simp))]
      have := ha (j + 1) (by simpa using hj)
      rwa [show i + 1 + j = i + (j + 1) by omega]
    · cases h

/-- `memWrite` stores byte `j` at its index, when no two bytes have the same. -/
theorem memWrite_read {w limit mask c i : Nat} {bs : List Byte} {m m' : Memory}
    (h : memWrite w limit mask c i bs m = .ok m')
    (hd : ∀ j k, j < k → k < bs.length → cellIndex w mask c (i + j) ≠ cellIndex w mask c (i + k))
    {j : Nat} (hj : j < bs.length) : m'.read (cellIndex w mask c (i + j)) = bs[j]? := by
  induction bs generalizing i j m with
  | nil => cases hj
  | cons b bs ih =>
    simp only [memWrite] at h
    split at h
    · next m1 h1 =>
      obtain ⟨_, rfl⟩ := storeAt_ok h1
      cases j with
      | zero =>
        rw [memWrite_frame h fun k hk => ?_]
        · simp
        · have := hd 0 (k + 1) (by omega) (by simpa using hk)
          rwa [show i + 1 + k = i + (k + 1) by omega]
      | succ j =>
        have := ih h (fun a b hab hb => by
          have := hd (a + 1) (b + 1) (by omega) (by simpa using hb)
          rwa [show i + 1 + a = i + (a + 1) by omega, show i + 1 + b = i + (b + 1) by omega])
          (j := j) (by simpa using hj)
        rw [show i + (j + 1) = i + 1 + j by omega, this]
        simp
    · cases h

/-- `memWrite` answers when every index lies in the array. -/
theorem memWrite_isOk {w limit mask c : Nat} (bs : List Byte) (i : Nat) (m : Memory)
    (hi : ∀ j, cellIndex w mask c j < limit) : ∃ m', memWrite w limit mask c i bs m = .ok m' := by
  induction bs generalizing i m with
  | nil => exact ⟨m, rfl⟩
  | cons b bs ih =>
    obtain ⟨m', h⟩ := ih (i + 1) (m.write (cellIndex w mask c i) b)
    exact ⟨m', by simpa [memWrite, storeAt, hi] using h⟩

/-- What `memRead` can do: it gives the bytes at the indices from byte `i` of its cursor on. -/
theorem memRead_ok {w limit mask c i n : Nat} {m : Memory} {out : List Byte}
    (h : memRead w limit mask c m i n = .ok out) :
    out.length = n ∧ ∀ j, j < n → m.read (cellIndex w mask c (i + j)) = out[j]? := by
  induction n generalizing i out with
  | zero => simp only [memRead, Except.ok.injEq] at h; subst h; simp
  | succ n ih =>
    simp only [memRead] at h
    split at h
    · cases h
    · next b hb =>
      split at h
      · cases h
      · next bs hbs =>
        obtain rfl : b :: bs = out := by simpa using h
        obtain ⟨hlen, hget⟩ := ih hbs
        refine ⟨by simp [hlen], fun j hj => ?_⟩
        cases j with
        | zero => simpa using (byteAt_ok hb).2
        | succ j =>
          rw [show i + (j + 1) = i + 1 + j by omega, hget j (by omega)]
          simp

/-- `memRead` answers when every byte it reads has a value and lies in the array. -/
theorem memRead_isOk {w limit mask c i n : Nat} {m : Memory}
    (hi : ∀ j, cellIndex w mask c j < limit)
    (hb : ∀ j, j < n → (m.read (cellIndex w mask c (i + j))).isSome = true) :
    ∃ out, memRead w limit mask c m i n = .ok out := by
  induction n generalizing i with
  | zero => exact ⟨[], rfl⟩
  | succ n ih =>
    obtain ⟨b, h0⟩ := Option.isSome_iff_exists.1 (hb 0 (by omega))
    obtain ⟨bs, hbs⟩ := ih (i := i + 1) (fun j hj => by
      have := hb (j + 1) (by omega)
      rwa [show i + (j + 1) = i + 1 + j by omega] at this)
    exact ⟨b :: bs, by simp only [memRead, byteAt_of_read (hi i) h0, hbs]⟩

end Sys2Proof.Machine
end

