-- ==== Sys2Proof/Laws/Flags.lean ====
section
/-! SUPPORT. Facts about `W`-bit numbers, capacities, indices and the comparator (00_scope.md R11, 10_state.md R25, R32,
R35). -/

namespace Sys2Proof

theorem wadd_lt (w a b : Nat) : wadd w a b < 2 ^ w := Nat.mod_lt _ (Nat.two_pow_pos w)

theorem wsub_lt (w a b : Nat) : wsub w a b < 2 ^ w := Nat.mod_lt _ (Nat.two_pow_pos w)

theorem wadd_assoc (w a b c : Nat) : wadd w (wadd w a b) c = wadd w a (b + c) := by
  simp [wadd, Nat.add_assoc]

/-- A difference that does not borrow is the difference of the numbers. -/
theorem wsub_of_le {w a b : Nat} (h : b ≤ a) (ha : a < 2 ^ w) : wsub w a b = a - b := by
  rw [wsub, Nat.mod_eq_of_lt (Nat.lt_of_le_of_lt h ha), show a + (2 ^ w - b) = a - b + 2 ^ w by omega,
    Nat.add_mod_right, Nat.mod_eq_of_lt (by omega)]

/-- Adding the difference back gives the number. -/
theorem wadd_wsub {w a b : Nat} (ha : a < 2 ^ w) : wadd w b (wsub w a b) = a := by
  have hb := Nat.mod_lt b (Nat.two_pow_pos w)
  have hdiv := Nat.div_add_mod b (2 ^ w)
  rw [wadd, wsub, Nat.add_mod_mod, show b + (a + (2 ^ w - b % 2 ^ w)) = a + 2 ^ w * (b / 2 ^ w + 1) by
    rw [Nat.mul_add]; omega, Nat.add_mul_mod_self_left, Nat.mod_eq_of_lt ha]

/-- A sum whose first part is known determines its second part. -/
theorem wadd_right_cancel {w a b c : Nat} (hb : b < 2 ^ w) (hc : c < 2 ^ w) (h : wadd w a b = wadd w a c) : b = c := by
  have : a + b ≡ a + c [MOD 2 ^ w] := h
  have := Nat.ModEq.add_left_cancel' a this
  rwa [Nat.ModEq, Nat.mod_eq_of_lt hb, Nat.mod_eq_of_lt hc] at this

namespace Machine

theorem isPow2_iff (w c : Nat) : isPow2 w c = true ↔ ∃ k, k < w ∧ c = 2 ^ k := by
  simp only [isPow2, List.any_eq_true, List.mem_range, beq_iff_eq]

theorem isPow2_lt {w c : Nat} (h : isPow2 w c = true) : 0 < c ∧ c < 2 ^ w := by
  obtain ⟨k, hk, rfl⟩ := (isPow2_iff w c).1 h
  exact ⟨Nat.two_pow_pos k, Nat.pow_lt_pow_right (by decide) hk⟩

/-- For a power of two `cap` the mask is `cap - 1` (R25). -/
theorem mask_eq {s : State} (h : isPow2 s.params.width s.cap = true) : s.mask = s.cap - 1 :=
  wsub_of_le (isPow2_lt h).1 (isPow2_lt h).2

/-- For a power of two `cap`, the index of a byte is cursor plus position modulo `cap` (R25, R35). -/
theorem cellIndex_eq_mod {w c : Nat} (h : isPow2 w c = true) (x i : Nat) : cellIndex w (c - 1) x i = (x + i) % c := by
  obtain ⟨k, hk, rfl⟩ := (isPow2_iff w c).1 h
  rw [cellIndex, wadd, Nat.and_two_pow_sub_one_eq_mod,
    Nat.mod_mod_of_dvd _ (Nat.pow_dvd_pow 2 (Nat.le_of_lt hk))]

/-- Every index lies below the capacity (R25). -/
theorem cellIndex_lt {w c : Nat} (h : isPow2 w c = true) (x i : Nat) : cellIndex w (c - 1) x i < c := by
  rw [cellIndex_eq_mod h]
  exact Nat.mod_lt _ (isPow2_lt h).1

/-- Bytes less than a capacity apart have different indices (R59). -/
theorem cellIndex_ne {w c : Nat} (h : isPow2 w c = true) (x : Nat) {i j : Nat} (hij : i < j) (hj : j < i + c) :
    cellIndex w (c - 1) x i ≠ cellIndex w (c - 1) x j := by
  rw [cellIndex_eq_mod h, cellIndex_eq_mod h]
  intro e
  have hd : c ∣ (x + j) - (x + i) := (Nat.modEq_iff_dvd' (by omega)).1 e
  have := Nat.le_of_dvd (by omega) hd
  omega

/-- Byte `i` from the write cursor on has the index of byte `occ + i` from the read cursor on (R59). -/
theorem cellIndex_wc {s : State} (hw : s.wc < 2 ^ s.params.width) (mask i : Nat) :
    cellIndex s.params.width mask s.wc i = cellIndex s.params.width mask s.rc (s.occ + i) := by
  rw [cellIndex, cellIndex, ← wadd_assoc, State.occ, wadd_wsub hw]

/-- The flag `empty` is an occupancy of 0 (R126). -/
theorem occ_eq_zero {s : State} (hw : s.wc < 2 ^ s.params.width) (hr : s.rc < 2 ^ s.params.width) :
    s.occ = 0 ↔ s.wc = s.rc := by
  constructor
  · intro h
    have := wadd_wsub (w := s.params.width) (b := s.rc) hw
    rw [show wsub s.params.width s.wc s.rc = 0 from h, wadd, Nat.add_zero, Nat.mod_eq_of_lt hr] at this
    exact this.symm
  · intro h
    rw [State.occ, h, wsub_of_le (Nat.le_refl _) hr, Nat.sub_self]

/-- The free space is capacity minus occupancy (R124, R126). -/
theorem avail_eq {s : State} (hc : s.cap < 2 ^ s.params.width) (ho : s.occ ≤ s.cap) : s.avail = s.cap - s.occ :=
  wsub_of_le ho hc

/-- On the path where it is evaluated PUT's clamp changes nothing (R142). -/
theorem clampPut_eq {s : State} {n : Nat} (h : s.noSpace n = false) : s.clampPut n = n := by
  have : n ≤ s.avail := by simpa [State.noSpace] using h
  simp [State.clampPut, this]

end Machine

end Sys2Proof
end

