-- ==== Sys2Proof/Laws/Ops.lean ====
section
/-! SUPPORT. One lemma for each shared operation that says once everything it can do. -/

namespace Sys2Proof.Machine

/-- What the FATAL gate can do (R232). -/
theorem unlessFatal_cases (body : State → Out) (s : State) :
    (s.life = .fatal ∧ unlessFatal body s = .fault .fatalState) ∨ (s.life ≠ .fatal ∧ unlessFatal body s = body s) := by
  unfold unlessFatal
  by_cases h : s.life = .fatal <;> simp [h]

theorem unlessFatal_next {body : State → Out} {s t : State} (h : unlessFatal body s = .next t) :
    s.life ≠ .fatal ∧ body s = .next t := by
  rcases unlessFatal_cases body s with ⟨_, e⟩ | ⟨hl, e⟩ <;> rw [e] at h
  · cases h
  · exact ⟨hl, h⟩

/-- What the lifecycle gate can do (R232, R236, R242). -/
theorem whenReady_cases (v : Nat) (body : State → Out) (s : State) :
    (s.life = .fatal ∧ whenReady v body s = .fault .fatalState) ∨
    (s.life = .ready ∧ whenReady v body s = body s) ∨
    ((s.life = .uninit ∨ s.life = .released) ∧ whenReady v body s = .next (s.answer s.turn .badState v [])) := by
  unfold whenReady
  cases h : s.life <;> simp

/-- What the lock gate can do (R62, R63). -/
theorem underLock_cases (v : Nat) (body : State → Out) (s : State) :
    (s.life = .fatal ∧ underLock v body s = .fault .fatalState) ∨
    (s.life = .ready ∧ s.lock = .free ∧ underLock v body s = body (s.acquire s.turn)) ∨
    (s.life = .ready ∧ (∃ g, s.lock = .held g) ∧ underLock v body s = .next s) ∨
    ((s.life = .uninit ∨ s.life = .released) ∧ underLock v body s = .next (s.answer s.turn .badState v [])) := by
  unfold underLock whenReady
  cases h : s.life <;> cases hl : s.lock <;> simp [hl]

/-- What INIT can do (R100). -/
theorem execInit_cases (c : Nat) (s : State) :
    (s.life = .fatal ∧ execInit c s = .fault .fatalState) ∨
    (s.life ≠ .fatal ∧ s.quiescent s.turn = false ∧ execInit c s = .fault .notQuiescent) ∨
    (s.life = .ready ∧ s.quiescent s.turn = true ∧ execInit c s = .next (s.answer s.turn .badState 0 [])) ∨
    ((s.life = .uninit ∨ s.life = .released) ∧ s.quiescent s.turn = true ∧
      ((isPow2 s.params.width c = false ∧ execInit c s = .next (s.raiseFatal s.turn)) ∨
       (isPow2 s.params.width c = true ∧ s.params.maxCapacity < c ∧
          execInit c s = .next (s.answer s.turn .allocationFailure 0 [])) ∨
       (isPow2 s.params.width c = true ∧ c ≤ s.params.maxCapacity ∧
          execInit c s = .next ((s.initCommit c).answer s.turn .ok c [])))) := by
  unfold execInit unlessFatal initBody
  cases h : s.life <;> cases hq : s.quiescent s.turn <;> cases hp : isPow2 s.params.width c <;>
    by_cases hc : s.params.maxCapacity < c <;> simp [hc] <;> omega

/-- What RELEASE can do (R170). -/
theorem execRelease_cases (s : State) :
    (s.life = .fatal ∧ execRelease s = .fault .fatalState) ∨
    (s.life ≠ .fatal ∧ s.quiescent s.turn = false ∧ execRelease s = .fault .notQuiescent) ∨
    (s.life = .ready ∧ s.quiescent s.turn = true ∧
      execRelease s = .next (s.releaseCommit.answer s.turn .ok 0 [])) ∨
    ((s.life = .uninit ∨ s.life = .released) ∧ s.quiescent s.turn = true ∧
      execRelease s = .next (s.answer s.turn .badState 0 [])) := by
  unfold execRelease unlessFatal whenReady
  cases h : s.life <;> cases hq : s.quiescent s.turn <;> simp [h, hq]

/-- What PUT can do before its lock gate (R146, R232). -/
theorem execPut_cases (n : Nat) (s : State) :
    (s.life = .fatal ∧ execPut n s = .fault .fatalState) ∨
    (s.life ≠ .fatal ∧ s.shortData n = true ∧ execPut n s = .refused .shortData) ∨
    (s.life ≠ .fatal ∧ s.shortData n = false ∧ execPut n s = underLock 0 (putBody n) s) := by
  unfold execPut unlessFatal
  by_cases h : s.life = .fatal <;> cases hd : s.shortData n <;> simp [h, hd]

/-- What PUT under the lock answers when it answers a next state (R141 to R145). -/
theorem putBody_next {n : Nat} {s t : State} (h : putBody n s = .next t) :
    (s.noSpace n = true ∧ t = putRejected s.turn s) ∨
    (s.noSpace n = false ∧ n ≤ (s.operandData.getD []).length ∧
      ∃ m, memWrite s.params.width s.params.maxCapacity s.mask s.wc 0 ((s.operandData.getD []).take n) s.storage =
          .ok m ∧
        t = putDone s.turn n { s with storage := m }) := by
  unfold putBody at h
  cases hs : s.noSpace n with
  | true => simp only [hs, if_true] at h; exact .inl ⟨rfl, by injection h with h; exact h.symm⟩
  | false =>
    simp only [hs, Bool.false_eq_true, if_false, clampPut_eq hs] at h
    split at h
    · cases h
    · next hd =>
      split at h
      · cases h
      · next m hm => exact .inr ⟨rfl, by omega, m, hm, by injection h with h; exact h.symm⟩

/-- What GET under the lock answers when it answers a next state (R151 to R156). -/
theorem getBody_next {req : Nat} {s t : State} (h : getBody req s = .next t) :
    (s.empty = true ∧ t = getRejected s.turn req s) ∨
    (s.empty = false ∧
      ∃ out, memRead s.params.width s.params.maxCapacity s.mask s.rc s.storage 0 (s.clampGet req) = .ok out ∧
        t = getDone s.turn (s.clampGet req) out s) := by
  unfold getBody at h
  cases he : s.empty with
  | true => simp only [he, if_true] at h; exact .inl ⟨rfl, by injection h with h; exact h.symm⟩
  | false =>
    simp only [he, Bool.false_eq_true, if_false] at h
    split at h
    · cases h
    · next out ho => exact .inr ⟨rfl, out, ho, by injection h with h; exact h.symm⟩

/-- What GET's commit can do (R154, R155). -/
theorem advanceRc_cases (s : State) (n : Nat) :
    (wadd s.params.width s.rc n = s.wc ∧ s.advanceRc n = s.commitCursors 0 0 false) ∨
    (wadd s.params.width s.rc n ≠ s.wc ∧
      s.advanceRc n = s.commitCursors s.wc (wadd s.params.width s.rc n) (n == 1)) := by
  unfold State.advanceRc
  split <;> simp_all

/-- What the effect of the next operation can be (R66, R85, R232). -/
theorem serve_cases (s : State) :
    (s.life = .fatal ∧ serve s = .fault .fatalState) ∨
    (s.life ≠ .fatal ∧ (∀ op, s.slot s.turn ≠ .issued op) ∧ serve s = .next s) ∨
    (s.life ≠ .fatal ∧ ∃ op i, s.slot s.turn = .issued op ∧ decode s.params.width op.word = .command i ∧
      serve s = exec i s) ∨
    (s.life ≠ .fatal ∧ ∃ op c, s.slot s.turn = .issued op ∧ decode s.params.width op.word = .reserved c ∧
      serve s = .next (s.answer s.turn .illegalOp 0 [])) := by
  unfold serve illegalOp unlessFatal State.fetchWord
  by_cases hl : s.life = .fatal
  · simp [hl]
  · cases h : s.slot s.turn with
    | issued op => cases hd : decode s.params.width op.word <;> simp [hl, h, hd]
    | _ => simp [hl, h]

/-- What a step can be. -/
theorem step_cases (s : State) :
    (s.script = [] ∧ step s = serve s) ∨
    (∃ e rest, s.script = e :: rest ∧ step s = runEvent e { s with script := rest }) := by
  unfold step
  cases h : s.script <;> simp

/-- What an edge of `clk` can do (R180, R181, R232). -/
theorem clkEdge_cases (inp : PortIn) (s : State) :
    (inp.rst = true ∧ clkEdge inp s = .next s.hardwareReset.drawn) ∨
    (inp.rst = false ∧ s.life = .fatal ∧ clkEdge inp s = .fault .fatalState) ∨
    (inp.rst = false ∧ s.life ≠ .fatal ∧ clkEdge inp s = endEdge s (runningEdge inp s)) := by
  unfold clkEdge unlessFatal
  cases h : inp.rst <;> by_cases hl : s.life = .fatal <;> simp [hl]

/-- A running edge that answers a next state: the slots were sampled, the immediate commands accepted, then the lock's
part (R185 to R191). -/
theorem runningEdge_next {inp : PortIn} {s t : State} (h : runningEdge inp s = .next t) :
    ∃ xs s1, sampleSlots s.params.width s.params.nReq inp.reqs s.slots = some xs ∧ portBreach inp s = false ∧
      acceptImmediates s.life (List.range s.params.nReq) { s with slots := xs } = .next s1 ∧
      lockEdge inp s s1 = .next t := by
  unfold runningEdge at h
  split at h
  · cases h
  · next xs hx =>
    split at h
    · cases h
    · next hb =>
      split at h
      · next s1 h1 => exact ⟨xs, s1, hx, by simpa using hb, h1, h⟩
      · cases h
      · cases h

theorem endEdge_next {s t : State} {o : Out} (h : endEdge s o = .next t) :
    ∃ u, o = .next u ∧ t = { u with turn := s.turn, draws := s.draws + 1 } := by
  cases o with
  | next u => exact ⟨u, rfl, by injection h with h; exact h.symm⟩
  | fault f => cases h
  | refused f => cases h

/-- A property that accepting each immediate command keeps, accepting all of them keeps (R186). -/
theorem acceptImmediates_keeps {P : State → Prop} {life : Life} {rs : List Nat} {s t : State}
    (hstep : ∀ r s s', r ∈ rs → P s → acceptImmediate life r s = .next s' → P s')
    (h : acceptImmediates life rs s = .next t) (hs : P s) : P t := by
  induction rs generalizing s with
  | nil => simp only [acceptImmediates] at h; injection h with h; exact h ▸ hs
  | cons r rs ih =>
    simp only [acceptImmediates] at h
    split at h
    · next s' h' =>
      exact ih (fun r' a b hr => hstep r' a b (List.mem_cons_of_mem _ hr)) h
        (hstep r s s' (List.mem_cons_self ..) hs h')
    · cases h
    · cases h

/-- The slot of a requester after sampling (R183, R184). -/
theorem sampleSlots_slotAt {w n : Nat} {qs : List ReqIn} {xs ys : List Slot}
    (h : sampleSlots w n qs xs = some ys) :
    (∀ r, r < n → sampleSlot w (qs.getD r ReqIn.rest) (slotAt xs r) = some (slotAt ys r)) ∧
    ∀ r, n ≤ r → slotAt ys r = .idle := by
  induction n generalizing qs xs ys with
  | zero => simp only [sampleSlots, Option.some.injEq] at h; subst h; simp [slotAt_nil]
  | succ n ih =>
    simp only [sampleSlots] at h
    split at h
    · next y ys' hy hys =>
      obtain rfl : y :: ys' = ys := by simpa using h
      obtain ⟨h1, h2⟩ := ih hys
      constructor
      · intro r hr
        cases r with
        | zero => cases qs <;> cases xs <;> simpa [slotAt, ReqIn.rest] using hy
        | succ r =>
          have := h1 r (by omega)
          cases qs <;> cases xs <;> simpa [slotAt, slotAt_nil, ReqIn.rest] using this
      · intro r hr
        cases r with
        | zero => omega
        | succ r => simpa [slotAt] using h2 r (by omega)
    · cases h

end Sys2Proof.Machine
end

