-- ==== Sys2Proof/Laws/PerInstr.lean ====
section
/-! SUPPORT. Statements about every instruction, one lemma per constructor, and what the fields of a word are. -/

namespace Sys2Proof

/-- The fields of a word put together from an op and an argument of `w` bits are these two (R81, R92). -/
theorem fields_joinFields {w : Nat} (op : BitVec 4) {arg : Nat} (h : arg < 2 ^ w) :
    opField w (joinFields w op arg) = op ∧ argField w (joinFields w op arg) = arg := by
  constructor
  · rw [opField, joinFields, Nat.add_comm, Nat.add_mul_div_right _ _ (Nat.two_pow_pos w), Nat.div_eq_of_lt h,
      Nat.zero_add, BitVec.ofNat_toNat, BitVec.setWidth_eq]
  · rw [argField, joinFields, Nat.add_comm, Nat.add_mul_mod_self_right, Nat.mod_eq_of_lt h]

/-- The wires carry both fields of a word (R182). -/
theorem fields_wireWord (w word : Nat) :
    opField w (wireWord w word) = opField w word ∧ argField w (wireWord w word) = argField w word := by
  constructor
  · apply BitVec.eq_of_toNat_eq
    rw [opField, opField, wireWord, BitVec.toNat_ofNat, BitVec.toNat_ofNat, Nat.pow_add,
      Nat.mod_mul_right_div_self, Nat.mod_mod]
  · rw [argField, argField, wireWord, Nat.mod_mod_of_dvd _ (Nat.pow_dvd_pow 2 (by omega))]

/-- A word and what the wires carry of it decode alike. -/
theorem decode_wireWord (w word : Nat) : decode w (wireWord w word) = decode w word := by
  simp [decode, fields_wireWord]

/-- The word of a well-formed operation fits the wires (R81). -/
theorem wireWord_encode {w : Nat} {i : Instr} (h : i.WellFormed w) : wireWord w (encode w i) = encode w i := by
  rw [wireWord, encode, joinFields, Nat.mod_eq_of_lt]
  have := i.opcode.isLt
  have h : i.arg < 2 ^ w := h
  calc _ < i.opcode.toNat * 2 ^ w + 2 ^ w := by omega
    _ = (i.opcode.toNat + 1) * 2 ^ w := by rw [Nat.add_mul, Nat.one_mul]
    _ ≤ 2 ^ 4 * 2 ^ w := Nat.mul_le_mul_right _ (by omega)
    _ = 2 ^ (w + 4) := by rw [Nat.pow_add, Nat.mul_comm]

namespace Laws.FieldsOfWord

/-- The fields of a well-formed operation's word are its opcode and its argument, at every width (R81, R92). -/
def Statement (i : Instr) : Prop :=
  ∀ w, i.WellFormed w → opField w (encode w i) = i.opcode ∧ argField w (encode w i) = i.arg

theorem init (capacity : Nat) : Statement (.init capacity) := fun _ h => fields_joinFields _ h
theorem reset : Statement .reset := fun _ h => fields_joinFields _ h
theorem isEmpty : Statement .isEmpty := fun _ h => fields_joinFields _ h
theorem isFull : Statement .isFull := fun _ h => fields_joinFields _ h
theorem len : Statement .len := fun _ h => fields_joinFields _ h
theorem put (length : Nat) : Statement (.put length) := fun _ h => fields_joinFields _ h
theorem get (req : Nat) : Statement (.get req) := fun _ h => fields_joinFields _ h
theorem release : Statement .release := fun _ h => fields_joinFields _ h

end Laws.FieldsOfWord

end Sys2Proof
end

