-- ==== Sys2Proof/Laws/Exec.lean ====
section
/-! SUPPORT. Everything an operation can do, in one lemma: the cases of `exec` when it answers a next state. -/

namespace Sys2Proof.Machine

/-- Everything the effect of an operation can be, when it answers a next state. -/
inductive ExecResult (s : State) : Instr → State → Prop
  /-- waiting for the lock: nothing changes (R62) -/
  | waits (i) (hl : s.life = .ready) (hg : ∃ g, s.lock = .held g) : ExecResult s i s
  /-- answered without a commit and without the lock: BAD_STATE, ALLOCATION_FAILURE, IS_EMPTY, IS_FULL -/
  | answers (i) (st : Status) (v : Nat) (hl : s.life ≠ .fatal) : ExecResult s i (s.answer s.turn st v [])
  /-- answered under the lock without a commit: LEN, rejected PUT and GET -/
  | answersLocked (i) (st : Status) (v : Nat) (hl : s.life = .ready) (hf : s.lock = .free) :
      ExecResult s i (((s.acquire s.turn).answer s.turn st v []).releaseLock)
  /-- the fatal fault (R232) -/
  | fatal (c) (hl : s.life = .uninit ∨ s.life = .released) (hq : s.quiescent s.turn = true)
      (hp : isPow2 s.params.width c = false) : ExecResult s (.init c) (s.raiseFatal s.turn)
  /-- INIT succeeds (R103) -/
  | inits (c) (hl : s.life = .uninit ∨ s.life = .released) (hq : s.quiescent s.turn = true)
      (hp : isPow2 s.params.width c = true) (hc : c ≤ s.params.maxCapacity) :
      ExecResult s (.init c) ((s.initCommit c).answer s.turn .ok c [])
  /-- RELEASE in READY (R170) -/
  | releases (hl : s.life = .ready) (hq : s.quiescent s.turn = true) :
      ExecResult s .release (s.releaseCommit.answer s.turn .ok 0 [])
  /-- RESET in READY (R106) -/
  | resets (hl : s.life = .ready) (hf : s.lock = .free) : ExecResult s .reset (resetDone s.turn (s.acquire s.turn))
  /-- PUT that fits (R143 to R145) -/
  | puts (n) (m : Memory) (hl : s.life = .ready) (hf : s.lock = .free) (hn : s.noSpace n = false)
      (hd : n ≤ (s.operandData.getD []).length)
      (hm : memWrite s.params.width s.params.maxCapacity s.mask s.wc 0 ((s.operandData.getD []).take n) s.storage =
        .ok m) :
      ExecResult s (.put n) (putDone s.turn n { s.acquire s.turn with storage := m })
  /-- GET that delivers (R152 to R156) -/
  | gets (req) (out : List Byte) (hl : s.life = .ready) (hf : s.lock = .free) (he : s.empty = false)
      (hm : memRead s.params.width s.params.maxCapacity s.mask s.rc s.storage 0 (s.clampGet req) = .ok out) :
      ExecResult s (.get req) (getDone s.turn (s.clampGet req) out (s.acquire s.turn))

theorem whenReady_result {i : Instr} {v : Nat} {body : State → Out} {s t : State}
    (h : whenReady v body s = .next t) (hb : s.life = .ready → body s = .next t → ExecResult s i t) :
    ExecResult s i t := by
  rcases whenReady_cases v body s with ⟨hl, e⟩ | ⟨hl, e⟩ | ⟨hl, e⟩ <;> rw [e] at h
  · cases h
  · exact hb hl h
  · injection h with h; subst h; exact .answers i _ _ (by rcases hl with h | h <;> simp [h])

theorem underLock_result {i : Instr} {v : Nat} {body : State → Out} {s t : State}
    (h : underLock v body s = .next t)
    (hb : s.life = .ready → s.lock = .free → body (s.acquire s.turn) = .next t → ExecResult s i t) :
    ExecResult s i t := by
  rcases underLock_cases v body s with ⟨hl, e⟩ | ⟨hl, hf, e⟩ | ⟨hl, hg, e⟩ | ⟨hl, e⟩ <;> rw [e] at h
  · cases h
  · exact hb hl hf h
  · injection h with h; subst h; exact .waits i hl hg
  · injection h with h; subst h; exact .answers i _ _ (by rcases hl with h | h <;> simp [h])

/-- The effect of an operation is one of the cases of `ExecResult`. -/
theorem exec_next {i : Instr} {s t : State} (h : exec i s = .next t) : ExecResult s i t := by
  cases i with
  | init c =>
    rcases execInit_cases c s with ⟨hl, e⟩ | ⟨_, _, e⟩ | ⟨hl, _, e⟩ |
      ⟨hl, hq, ⟨hp, e⟩ | ⟨_, _, e⟩ | ⟨hp, hc, e⟩⟩ <;> simp only [exec, e] at h
    · cases h
    · cases h
    · injection h with h; subst h; exact .answers _ _ _ (by simp [hl])
    · injection h with h; subst h; exact .fatal c hl hq hp
    · injection h with h; subst h; exact .answers _ _ _ (by rcases hl with h | h <;> simp [h])
    · injection h with h; subst h; exact .inits c hl hq hp hc
  | reset =>
    refine underLock_result (body := fun s => .next (resetDone s.turn s)) h fun hl hf e => ?_
    injection e with e; subst e; exact .resets hl hf
  | isEmpty =>
    refine whenReady_result (body := fun s => .next (s.answer s.turn .ok (boolVal s.empty) [])) h fun hl e => ?_
    injection e with e; subst e; exact .answers _ _ _ (by simp [hl])
  | isFull =>
    refine whenReady_result (body := fun s => .next (s.answer s.turn .ok (boolVal s.full) [])) h fun hl e => ?_
    injection e with e; subst e; exact .answers _ _ _ (by simp [hl])
  | len =>
    refine underLock_result (body := fun s => .next (lenDone s.turn s)) h fun hl hf e => ?_
    injection e with e; subst e; exact .answersLocked _ _ _ hl hf
  | put n =>
    rcases execPut_cases n s with ⟨_, e⟩ | ⟨_, _, e⟩ | ⟨_, _, e⟩ <;> simp only [exec, e] at h
    · cases h
    · cases h
    refine underLock_result (body := putBody n) h fun hl hf e => ?_
    rcases putBody_next e with ⟨_, e⟩ | ⟨hn, hd, m, hm, e⟩
    · subst e; exact .answersLocked _ _ _ hl hf
    · subst e; exact .puts n m hl hf hn hd hm
  | get req =>
    refine underLock_result (body := getBody req) h fun hl hf e => ?_
    rcases getBody_next e with ⟨_, e⟩ | ⟨he, out, hm, e⟩
    · subst e; exact .answersLocked _ _ _ hl hf
    · subst e; exact .gets req out hl hf he hm
  | release =>
    rcases execRelease_cases s with ⟨hl, e⟩ | ⟨_, _, e⟩ | ⟨hl, hq, e⟩ | ⟨hl, _, e⟩ <;> simp only [exec, e] at h
    · cases h
    · cases h
    · injection h with h; subst h; exact .releases hl hq
    · injection h with h; subst h; exact .answers _ _ _ (by rcases hl with h | h <;> simp [h])

/-- The effect of the next operation, when it answers a next state: nothing, an operation's effect, or ILLEGAL_OP. -/
theorem serve_next {s t : State} (h : serve s = .next t) :
    t = s ∨ ∃ op i, s.slot s.turn = .issued op ∧ ExecResult s i t := by
  rcases serve_cases s with ⟨_, e⟩ | ⟨_, _, e⟩ | ⟨_, op, i, ho, _, e⟩ | ⟨hl, op, c, ho, _, e⟩ <;> rw [e] at h
  · cases h
  · injection h with h; exact .inl h.symm
  · exact .inr ⟨op, i, ho, exec_next h⟩
  · injection h with h; subst h; exact .inr ⟨op, .len, ho, .answers _ _ _ hl⟩

end Sys2Proof.Machine
end

