-- ==== Sys2Proof/Laws/Step.lean ====
section
/-! SUPPORT. Everything a step can do, in one lemma, and how a property of states is carried through it. -/

namespace Sys2Proof.Machine

/-- What the sequencer's edge can do when it answers a next state (R188 to R191). -/
inductive SequencerResult (inp : PortIn) (g : Nat) (s : State) : State → Prop
  /-- no byte offered or taken, or nothing to do -/
  | idles : SequencerResult inp g s s
  | resets (hp : s.phase = .check) (hc : s.curCommand = .command .reset) : SequencerResult inp g s (resetDone g s)
  | lens (hp : s.phase = .check) (hc : s.curCommand = .command .len) : SequencerResult inp g s (lenDone g s)
  | putRejects (n) (hp : s.phase = .check) (hc : s.curCommand = .command (.put n)) (hn : s.noSpace n = true) :
      SequencerResult inp g s (putRejected g (s.latchN n))
  | putZero (n) (hp : s.phase = .check) (hc : s.curCommand = .command (.put n)) (hn : s.noSpace n = false)
      (h0 : n = 0) : SequencerResult inp g s (putDone g 0 (s.latchN n))
  | putBegins (n) (hp : s.phase = .check) (hc : s.curCommand = .command (.put n)) (hn : s.noSpace n = false)
      (h0 : n ≠ 0) : SequencerResult inp g s (s.latchN n).beginData
  | getRejects (n) (hp : s.phase = .check) (hc : s.curCommand = .command (.get n)) (he : s.empty = true) :
      SequencerResult inp g s (getRejected g n (s.latchN (s.clampGet n)))
  | getZero (n) (hp : s.phase = .check) (hc : s.curCommand = .command (.get n)) (he : s.empty = false)
      (h0 : s.clampGet n = 0) : SequencerResult inp g s (getDone g 0 [] (s.latchN (s.clampGet n)))
  | getBegins (n) (hp : s.phase = .check) (hc : s.curCommand = .command (.get n)) (he : s.empty = false)
      (h0 : s.clampGet n ≠ 0) : SequencerResult inp g s (s.latchN (s.clampGet n)).beginData
  | putTakes (n) (b : Byte) (m : Memory) (hp : s.phase = .data) (hc : s.curCommand = .command (.put n))
      (hb : (inp.req g).wdValid = true ∧ (inp.req g).wdByte = b)
      (hm : storeAt s.params.maxCapacity (cellIndex s.params.width s.mask s.wc s.beat) b s.storage = .ok m) (hn : s.lastBeat = false) :
      SequencerResult inp g s ({ s with storage := m }.beatDone g b)
  | putCompletes (n) (b : Byte) (m : Memory) (hp : s.phase = .data) (hc : s.curCommand = .command (.put n))
      (hb : (inp.req g).wdValid = true ∧ (inp.req g).wdByte = b)
      (hm : storeAt s.params.maxCapacity (cellIndex s.params.width s.mask s.wc s.beat) b s.storage = .ok m) (hn : s.lastBeat = true) :
      SequencerResult inp g s (putDone g s.curN ({ s with storage := m }.beatDone g b))
  | getGives (n) (b : Byte) (hp : s.phase = .data) (hc : s.curCommand = .command (.get n))
      (hm : byteAt s.params.maxCapacity (cellIndex s.params.width s.mask s.rc s.beat) s.storage = .ok b) (hn : s.lastBeat = false) :
      SequencerResult inp g s (s.beatDone g b)
  | getCompletes (n) (b : Byte) (hp : s.phase = .data) (hc : s.curCommand = .command (.get n))
      (hm : byteAt s.params.maxCapacity (cellIndex s.params.width s.mask s.rc s.beat) s.storage = .ok b) (hn : s.lastBeat = true) :
      SequencerResult inp g s (getDone g s.curN (s.moved g ++ [b]) (s.beatDone g b))

theorem checkEdge_next {inp : PortIn} {g : Nat} {s t : State} (hp : s.phase = .check)
    (h : checkEdge g s = .next t) : SequencerResult inp g s t := by
  unfold checkEdge at h
  split at h
  · next hc => injection h with h; subst h; exact .resets hp hc
  · next hc => injection h with h; subst h; exact .lens hp hc
  · next n hc =>
    cases hn : s.noSpace n <;> simp only [hn, if_true, Bool.false_eq_true, if_false] at h
    · split at h <;> injection h with h <;> subst h
      · next h0 => exact .putZero n hp hc hn h0
      · next h0 => exact .putBegins n hp hc hn h0
    · injection h with h; subst h; exact .putRejects n hp hc hn
  · next n hc =>
    cases he : s.empty <;> simp only [he, if_true, Bool.false_eq_true, if_false] at h
    · split at h <;> injection h with h <;> subst h
      · next h0 => exact .getZero n hp hc he h0
      · next h0 => exact .getBegins n hp hc he h0
    · injection h with h; subst h; exact .getRejects n hp hc he
  · injection h with h; subst h; exact .idles

theorem dataEdge_next {inp : PortIn} {g : Nat} {s t : State} (hp : s.phase = .data)
    (h : dataEdge (inp.req g) g s = .next t) : SequencerResult inp g s t := by
  unfold dataEdge at h
  split at h
  · next n hc =>
    split at h
    · next hv =>
      unfold putBeat at h
      split at h
      · cases h
      · next m hm =>
        split at h <;> injection h with h <;> subst h
        · next hn => exact .putCompletes n _ m hp hc ⟨hv, rfl⟩ hm hn
        · next hn => exact .putTakes n _ m hp hc ⟨hv, rfl⟩ hm (by simpa using hn)
    · injection h with h; subst h; exact .idles
  · next n hc =>
    split at h
    · unfold getBeat at h
      split at h
      · cases h
      · next b hm =>
        split at h <;> injection h with h <;> subst h
        · next hn => exact .getCompletes n b hp hc hm hn
        · next hn => exact .getGives n b hp hc hm (by simpa using hn)
    · injection h with h; subst h; exact .idles
  · injection h with h; subst h; exact .idles

theorem sequencerEdge_next {inp : PortIn} {g : Nat} {s t : State} (h : sequencerEdge inp g s = .next t) :
    SequencerResult inp g s t := by
  unfold sequencerEdge at h
  split at h
  · next hp => exact checkEdge_next hp h
  · next hp => exact dataEdge_next hp h

/-- What the lock's part of an edge can do when it answers a next state (R187 to R191). -/
theorem lockEdge_next {inp : PortIn} {before s t : State} (h : lockEdge inp before s = .next t) :
    (∃ g, before.lock = .held g ∧ SequencerResult inp g s t) ∨
    (before.lock = .free ∧ grantee inp before = none ∧ t = s) ∨
    (∃ g, before.lock = .free ∧ grantee inp before = some g ∧ t = grantEdge g (inp.req g).cmdWord s) := by
  unfold lockEdge at h
  split at h
  · next g hg => exact .inl ⟨g, hg, sequencerEdge_next h⟩
  · next hf =>
    split at h
    · next hg => injection h with h; exact .inr (.inl ⟨hf, hg, h.symm⟩)
    · next g hg => injection h with h; exact .inr (.inr ⟨g, hf, hg, h.symm⟩)

/-- A requester that is granted the lock is one of those waiting for it (R187). -/
theorem pick_mem {rs : List Nat} {k g : Nat} (h : pick rs k = some g) : g ∈ rs := by
  unfold pick at h
  split at h
  · cases h
  · simpa using h.symm
  · exact List.mem_of_getElem? h

theorem grantee_waiting {inp : PortIn} {s : State} {g : Nat} (h : grantee inp s = some g) :
    s.lock = .free ∧ g < s.params.nReq ∧ presents inp s g = true ∧
      lockTaking s.params.width s.life (inp.req g).cmdWord = true := by
  unfold grantee at h
  split at h
  · next hf =>
    have := pick_mem h
    simp only [waiting, List.mem_filter, List.mem_range, Bool.and_eq_true] at this
    exact ⟨hf, this.1, this.2.1, this.2.2⟩
  · cases h

/-- A requester's immediate command, when it is accepted with a next state: nothing, or an operation's effect. -/
theorem acceptImmediate_next {life : Life} {r : Nat} {s t : State} (h : acceptImmediate life r s = .next t) :
    t = s ∨ ∃ w, s.slot r = .presented w ∧ lockTaking s.params.width life w = false ∧
      serve (issuedBy s r w none) = .next t := by
  unfold acceptImmediate at h
  split at h
  · next w hw =>
    split at h
    · injection h with h; exact .inl h.symm
    · next hl => exact .inr ⟨w, hw, by simpa using hl, h⟩
  · injection h with h; exact .inl h.symm

/-- A property that the smallest moves keep, every step keeps: the effect of an operation, the slots' bookkeeping, the
sequencer's edge, the grant, the hardware reset, the second clock. -/
theorem step_keeps {P : State → Prop}
    (hserve : ∀ s t, P s → serve s = .next t → P t)
    (hslots : ∀ s xs, P s → P { s with slots := xs })
    (hturn : ∀ s r, P s → P { s with turn := r })
    (hscript : ∀ s es, P s → P { s with script := es })
    (hdraws : ∀ s k, P s → P { s with draws := k })
    (hseen : ∀ s x, P s → P { s with remoteSeen := x })
    (hseq : ∀ inp g s t, P s → SequencerResult inp g s t → P t)
    (hgrant : ∀ g w s, P s → P (grantEdge g w s))
    (hreset : ∀ s, P s → P s.hardwareReset)
    (hoclk : ∀ s orst a b, P s → s.params.asyncFlags = true → P { s with async := s.async.clocked orst a b })
    {s t : State} (hs : P s) (h : step s = .next t) : P t := by
  rcases step_cases s with ⟨_, e⟩ | ⟨e, rest, _, e'⟩
  · rw [e] at h; exact hserve s t hs h
  · rw [e'] at h
    have hs' := hscript s rest hs
    revert h hs'
    generalize { s with script := rest } = u
    intro h hu
    cases e with
    | issue r w d =>
      have h := (unlessFatal_next h).2
      simp only [issue] at h
      split at h
      · cases h
      · split at h
        · cases h
        · split at h
          · cases h
          · injection h with h; subst h; exact hslots _ _ hu
    | effect r => exact hserve _ t (hturn _ _ hu) h
    | ret r =>
      have h := (unlessFatal_next h).2
      simp only [receive] at h
      split at h <;> injection h with h <;> subst h
      · exact hslots _ _ hu
      · exact hu
    | edge inp =>
      rcases clkEdge_cases inp u with ⟨_, e⟩ | ⟨_, _, e⟩ | ⟨_, _, e⟩ <;> simp only [runEvent, e] at h
      · injection h with h; subst h; exact hdraws _ _ (hreset _ hu)
      · cases h
      · obtain ⟨v, hv, rfl⟩ := endEdge_next h
        obtain ⟨xs, s1, _, _, h1, h2⟩ := runningEdge_next hv
        have hs1 : P s1 := acceptImmediates_keeps (P := P) (fun r a b _ ha hab => by
          rcases acceptImmediate_next hab with rfl | ⟨w, _, _, hsv⟩
          · exact ha
          · have hq : P (issuedBy a r w none) := hturn { a with slots := setSlot a.slots r (.issued ⟨w, none⟩) } r
              (hslots a _ ha)
            exact hserve _ _ hq hsv) h1 (hslots _ _ hu)
        have hv : P v := by
          rcases lockEdge_next h2 with ⟨g, _, hr⟩ | ⟨_, _, rfl⟩ | ⟨g, _, _, rfl⟩
          · exact hseq _ _ _ _ hs1 hr
          · exact hs1
          · exact hgrant _ _ _ hs1
        exact hdraws { v with turn := u.turn } (u.draws + 1) (hturn v u.turn hv)
    | oedge orst =>
      have h := (unlessFatal_next h).2
      simp only [oclkEdge] at h
      split at h
      · next ha =>
          injection h with h; subst h
          exact hdraws { u with async := u.async.clocked orst (Config.freeMask u.draws 0) (Config.freeMask u.draws 1) }
            (u.draws + 1) (hoclk u orst _ _ hu ha)
      · cases h
    | observe =>
      have h := (unlessFatal_next h).2
      simp only [observe] at h
      split at h
      · injection h with h; subst h; exact hdraws { u with remoteSeen := some (emptyO u, fullO u) } (u.draws + 1) (hseen u _ hu)
      · cases h

end Sys2Proof.Machine
end

