-- ==== Sys2Proof/Laws/Async.lean ====
section
/-! SUPPORT. The registers of the gray-code option (45_async_option.md): what a commit and an edge of `oclk` do to them,
field by field, and what a flip-flop captures. -/

namespace Sys2Proof.Machine

/-! ### A commit -/

section
variable (a : AsyncRegs) (wc rc wc' rc' : Nat) (c u : Bool)

@[simp] theorem follow_wcG : (a.follow wc rc wc' rc' c u).wcG = gray wc' := rfl
@[simp] theorem follow_rcG : (a.follow wc rc wc' rc' c u).rcG = gray rc' := rfl
@[simp] theorem follow_wcChain : (a.follow wc rc wc' rc' c u).wcChain = a.wcChain := rfl
@[simp] theorem follow_rcChain : (a.follow wc rc wc' rc' c u).rcChain = a.rcChain := rfl

/-- Where nothing changes the window of R216 goes on, and so do the earlier values; where something changes it starts
anew. -/
theorem follow_window :
    (wc' = wc ∧ rc' = rc ∧ c = false ∧ (a.follow wc rc wc' rc' c u).sinceChange = a.sinceChange ∧
      (a.follow wc rc wc' rc' c u).sinceJump = a.sinceJump ∧
      (a.follow wc rc wc' rc' c u).wcGOld = a.wcGOld ∧ (a.follow wc rc wc' rc' c u).rcGOld = a.rcGOld) ∨
    (¬ (wc' = wc ∧ rc' = rc ∧ c = false) ∧ (a.follow wc rc wc' rc' c u).sinceChange = 0) := by
  unfold AsyncRegs.follow
  by_cases h1 : wc' = wc <;> by_cases h2 : rc' = rc <;> cases c <;> simp [h1, h2]

end

/-- A commit moves the option's registers when it is built, and leaves them when it is not (R9, R210). -/
theorem exported_cases (p : Params) (a : AsyncRegs) (wc rc wc' rc' : Nat) (c u : Bool) :
    (p.asyncFlags = true ∧ exported p a wc rc wc' rc' c u = a.follow wc rc wc' rc' c u) ∨
    (p.asyncFlags = false ∧ exported p a wc rc wc' rc' c u = a) := by
  unfold exported
  cases h : p.asyncFlags <;> simp

/-! ### An edge of `oclk` -/

section
variable (a : AsyncRegs) (orst : Bool) (f g : Nat)

@[simp] theorem clocked_wcG : (a.clocked orst f g).wcG = a.wcG := by cases orst <;> rfl
@[simp] theorem clocked_rcG : (a.clocked orst f g).rcG = a.rcG := by cases orst <;> rfl
@[simp] theorem clocked_wcGOld : (a.clocked orst f g).wcGOld = a.wcG := by cases orst <;> rfl
@[simp] theorem clocked_rcGOld : (a.clocked orst f g).rcGOld = a.rcG := by cases orst <;> rfl

end

@[simp] theorem length_shiftIn (x : Nat) (chain : List Nat) : (shiftIn x chain).length = chain.length := by
  simp [shiftIn]

/-- What a chain holds after a shift (R214). -/
theorem getElem?_shiftIn (x : Nat) (chain : List Nat) {i : Nat} (h : i < chain.length) :
    (shiftIn x chain)[i]? = if i = 0 then some x else chain[i - 1]? := by
  rw [shiftIn, List.getElem?_take_of_lt h]
  cases i <;> simp

/-- A flip-flop whose input has not changed captures it (R214). -/
@[simp] theorem captured_same (free x : Nat) : captured free x x = x := by simp [captured]

/-- Each captured bit is the old one or the new one, as the free mask says (R214). -/
theorem testBit_captured (free old new i : Nat) :
    (captured free old new).testBit i = if free.testBit i then old.testBit i else new.testBit i := by
  rw [captured, Nat.testBit_xor, Nat.testBit_and, Nat.testBit_xor]
  cases free.testBit i <;> cases old.testBit i <;> cases new.testBit i <;> rfl

end Sys2Proof.Machine
end

