-- ==== Sys2Proof/Tests/Slice0.lean ====
section
/-! SUPPORT. Tests whose expected results come from spec/30_encoding.md (R82, R85, R92) and spec/95_test_vectors.md, and
for every obligation with hypotheses a witness that meets them all. -/

open Sys2Proof Sys2Proof.Machine

namespace Sys2Proof.Tests

/-! ### WellFormed: each check refuses an ill-formed term -/

theorem test_params_wf : Config.params.wf = true := by decide
theorem test_noRequester_refused : { Config.params with nReq := 0 }.reqOk = false := by decide
theorem test_noStage_refused : { Config.params with syncStages := 0 }.stagesOk = false := by decide
theorem test_narrowWidth_refused : { Config.params with width := 31 }.widthOk = false := by decide
theorem test_largeArray_refused : { Config.params with maxCapLog := 32 }.capacityOk = false := by decide
theorem test_wideOperand_refused : ¬ (Instr.put 0x100000000).WellFormed 32 := by decide
theorem test_wideWord_refused : cmdWordOk 32 0x1000000000 = false := by decide
theorem test_maxCapacity_bounds :
    ({ Config.params with maxCapLog := 31 } : Params).maxCapacity = 0x80000000 ∧
    ({ Config.params with maxCapLog := 0 } : Params).maxCapacity = 1 := by decide

/-! ### Decoding: words written out from R81 and R82, by the vectors B7 and R92 -/

/-- op 0001, arg 0...010000 (R92: `INIT 16`) -/
theorem test_decode_init :
    decode 32 0b0001_00000000000000000000000000010000 = .command (.init 16) := by decide
/-- op 0010, arg ignored (B2.6, B7.3) -/
theorem test_decode_reset :
    decode 32 0x200000000 = .command .reset ∧ decode 32 0x2DEADBEEF = .command .reset ∧
    decode 32 0b0010_11111111111111111111111111111111 = .command .reset := by decide
/-- op 0011, arg ignored (B7.4) -/
theorem test_decode_isEmpty :
    decode 32 0b0011_00000000000000000000000000000001 = .command .isEmpty := by decide
/-- op 0100 (B7.5) -/
theorem test_decode_isFull :
    decode 32 0b0100_00000000000000000000000000000000 = .command .isFull := by decide
/-- op 0101 (B7.6) -/
theorem test_decode_len :
    decode 32 0b0101_00000000000000000000000000000000 = .command .len := by decide
/-- op 0110, the whole of arg is the length (B7.7, R92: `PUT 9`) -/
theorem test_decode_put :
    decode 32 0b0110_11111111111111111111111111111111 = .command (.put 0xFFFFFFFF) ∧
    decode 32 0x600000009 = .command (.put 9) := by decide
/-- op 0111 (B7.8, R92: `GET 16`) -/
theorem test_decode_get :
    decode 32 0b0111_00000000000000000000000000000000 = .command (.get 0) ∧
    decode 32 0x700000010 = .command (.get 16) := by decide
/-- op 1000 (B7.9) -/
theorem test_decode_release :
    decode 32 0b1000_00000000000000000000000000000000 = .command .release := by decide
/-- op 0 and op 9 to 15 are reserved (B7.1, B7.10, B7.11) -/
theorem test_decode_reserved :
    decode 32 0x000000000 = .reserved 0 ∧ decode 32 0x900000000 = .reserved 9 ∧
    decode 32 0xF12345678 = .reserved 15 := by decide
theorem test_tableWord_rejects :
    decodeTableWord 36 0x900000000 = none ∧ decodeTableWord 40 0x1000000000 = none := by decide
/-- R81 at another width: 64-bit arguments, `op` in bits 67 to 64. -/
theorem test_decode_wide :
    decode 64 0x60000000000000009 = .command (.put 9) ∧ decode 64 0x7FFFFFFFFFFFFFFFF =
      .command (.get 0xFFFFFFFFFFFFFFFF) ∧ decode 64 0x600000009 = .reserved 0 := by decide
theorem test_encode :
    encode 32 (.init 16) = 0x100000010 ∧ encode 32 .release = 0x800000000 ∧ encode 32 (.put 9) = 0x600000009 := by decide
/-- R92: `OK 9`, `BUFFER_EMPTY 16`, `ILLEGAL_OP 0` -/
theorem test_responseWords :
    Response.word 32 ⟨.ok, 9, []⟩ = 0x000000009 ∧ Response.word 32 ⟨.bufferEmpty, 16, []⟩ = 0x300000010 ∧
    Response.word 32 ⟨.illegalOp, 0, []⟩ = 0x500000000 := by decide

/-! ### Small states -/

/-- READY with these cursors and bytes, nothing in flight. -/
def ready (cap wc rc : Nat) (m : Memory) : State :=
  { State.reset with life := .ready, cap := cap, wc := wc, rc := rc, storage := m }

/-- `s` with `i` issued by requester 0, whose turn it is. -/
def ask (i : Instr) (data : List Byte) (s : State) : State := issuedBy s 0 (encode s.params.width i) (some data)

/-- What one step leaves: the answer to requester 0 as a response word with its bytes. -/
def answerOf : Out → Option (Nat × List Byte)
  | .next t => match t.slot 0 with
    | .answered _ r => some (r.word t.params.width, r.bytes)
    | _ => none
  | _ => none

/-- What one step leaves: `life`, `cap`, `wc`, `rc`. -/
def coreOf : Out → Option (Life × Nat × Nat × Nat)
  | .next t => some (t.life, t.cap, t.wc, t.rc)
  | _ => none

/-- What one step leaves: storage. -/
def storageOf : Out → Option Memory
  | .next t => some t.storage
  | _ => none

/-! ### One step of each operation (the vectors of 95_test_vectors.md part B) -/

/-- B1.2 -/
theorem test_init :
    answerOf (step (ask (.init 4096) [] State.reset)) = some (0x000001000, []) ∧
    coreOf (step (ask (.init 4096) [] State.reset)) = some (.ready, 4096, 0, 0) := by decide
/-- B1.6, B1.7, B1.10 -/
theorem test_init_refusals :
    coreOf (step (ask (.init 12288) [] State.reset)) = some (.fatal, 0, 0, 0) ∧
    answerOf (step (ask (.init 0x80000000) [] State.reset)) = some (0x100000000, []) ∧
    answerOf (step (ask (.init 3) [] (ready 16 9 0 []))) = some (0x400000000, []) := by decide
/-- B2.1 -/
theorem test_reset :
    coreOf (step (ask .reset [] (ready 4 5 2 [(0, 0x45)]))) = some (.ready, 4, 0, 0) ∧
    storageOf (step (ask .reset [] (ready 4 5 2 [(0, 0x45)]))) = some [(0, 0x45)] := by decide
/-- B3.1, B3.2, B3.11 -/
theorem test_isEmpty :
    answerOf (step (ask .isEmpty [] (ready 16 0 0 []))) = some (0x000000001, []) ∧
    answerOf (step (ask .isEmpty [] (ready 16 9 0 []))) = some (0x000000000, []) ∧
    answerOf (step (ask .isEmpty [] (ready 4 0xFFFFFFFF 0xFFFFFFFF []))) = some (0x000000001, []) := by decide
/-- B3.5, B3.9 -/
theorem test_isFull :
    answerOf (step (ask .isFull [] (ready 4 5 2 []))) = some (0x000000000, []) ∧
    answerOf (step (ask .isFull [] (ready 4 2 0xFFFFFFFE []))) = some (0x000000001, []) := by decide
/-- B3.2, B3.10 -/
theorem test_len :
    answerOf (step (ask .len [] (ready 16 9 0 []))) = some (0x000000009, []) ∧
    answerOf (step (ask .len [] (ready 4 1 0xFFFFFFFD []))) = some (0x000000004, []) := by decide
/-- B4.4: the indices are 3 and 0. -/
theorem test_put_wraps :
    storageOf (step (ask (.put 2) [0xA, 0xB] (ready 4 3 1 [(0, 0x50), (1, 0x51), (2, 0x52)]))) =
      some [(0, 0xB), (1, 0x51), (2, 0x52), (3, 0xA)] ∧
    coreOf (step (ask (.put 2) [0xA, 0xB] (ready 4 3 1 [(0, 0x50), (1, 0x51), (2, 0x52)]))) =
      some (.ready, 4, 5, 1) := by decide
/-- B4.3, B4.9 -/
theorem test_put_corners :
    answerOf (step (ask (.put 3) [1, 2, 3] (ready 4 3 1 []))) = some (0x200000000, []) ∧
    storageOf (step (ask (.put 3) [0xB0, 0xB1, 0xB2] (ready 4 0xFFFFFFFE 0xFFFFFFFD [(1, 0xAA)]))) =
      some [(0, 0xB2), (1, 0xAA), (2, 0xB0), (3, 0xB1)] := by decide
/-- B5.11: the exact drain across the wrap of the cursor. -/
theorem test_get_drains :
    answerOf (step (ask (.get 4) [] (ready 4 1 0xFFFFFFFF [(0, 0xB2), (1, 0xAA), (2, 0xB0), (3, 0xB1)]))) =
      some (0x000000002, [0xB1, 0xB2]) ∧
    coreOf (step (ask (.get 4) [] (ready 4 1 0xFFFFFFFF [(0, 0xB2), (1, 0xAA), (2, 0xB0), (3, 0xB1)]))) =
      some (.ready, 4, 0, 0) := by decide
/-- B5.2, B5.6, B5.13 -/
theorem test_get_corners :
    coreOf (step (ask (.get 1) [] (ready 4 3 3 []))) = some (.ready, 4, 3, 3) ∧
    coreOf (step (ask (.get 0) [] (ready 4 4 2 []))) = some (.ready, 4, 4, 2) ∧
    answerOf (step (ask (.get 7) [] { State.reset with life := .released })) = some (0x400000007, []) := by decide
/-- B6.2, B6.4 -/
theorem test_release :
    coreOf (step (ask .release [] (ready 4 4 1 []))) = some (.released, 4, 4, 1) ∧
    answerOf (step (ask .release [] { State.reset with life := .released })) = some (0x400000000, []) := by decide
/-- R146, R245: a PUT with too little data is refused though it would not fit, and outside READY. -/
theorem test_put_short :
    (match step (ask (.put 3) [1, 2] (ready 4 3 1 [])) with
      | .refused .shortData => true
      | _ => false) = true ∧
    (match step (ask (.put 3) [1, 2] State.reset) with
      | .refused .shortData => true
      | _ => false) = true := by decide
/-- B7.11 -/
theorem test_reserved :
    answerOf (step (issuedBy State.reset 0 0xF12345678 (some []))) = some (0x500000000, []) := by decide
theorem test_withFetchWord :
    step (State.reset.withFetchWord 36 0x100000010) =
      exec (.init 16) (State.reset.withFetchWord 36 0x100000010) := rfl

/-! ### The port level and the option -/

/-- R198: at the grant edge of `PUT 2` the lock is taken and `cmd_ready` is 1. -/
theorem test_grant :
    cmdReady (soloInput 0 (presenting 0x600000002)) (ready 4 0 0 []) 0 = true ∧
    (match clkEdge (soloInput 0 (presenting 0x600000002)) (ready 4 0 0 []) with
      | .next t => decide (t.lock = .held 0 ∧ t.curOp = 6 ∧ t.curArg = 2 ∧ t.wc = 0)
      | _ => false) = true := by decide
/-- B9 -/
theorem test_gray :
    gray 5 = 7 ∧ gray 0x7FFFFFFF = 0x40000000 ∧ gray 0xFFFFFFFF = 0x80000000 ∧
    ungray 32 0x80000000 = 0xFFFFFFFF ∧ ungray 32 7 = 5 := by decide
/-- B8: the indices of `c = 6`, `cap = 8` and of `c = 0xFFFFFFFE`, `cap = 4` -/
theorem test_indices :
    (List.range 4).map (fun i => cellIndex 32 7 6 i) = [6, 7, 0, 1] ∧
    (List.range 3).map (fun i => cellIndex 32 3 0xFFFFFFFE i) = [2, 3, 0] := by decide

/-- R216: an INIT that leaves `wc`, `rc` and `cap` as they were does not start the window anew, one of another capacity
does; a RESET whose cursor wraps from `2^32 - 1` to 0 is no unit step, a GET of one byte is one. -/
theorem test_windows :
    (AsyncRegs.follow { AsyncRegs.atReset 2 with sinceChange := 7, sinceJump := 7 } 0 0 0 0 false false).sinceChange = 7 ∧
    (match execInit 4 { State.reset with params := { Config.params with asyncFlags := true }, cap := 4
                                         async := { AsyncRegs.atReset 2 with sinceChange := 7 } } with
      | .next t => t.async.sinceChange
      | _ => 0) = 7 ∧
    (match execInit 8 { State.reset with params := { Config.params with asyncFlags := true }, cap := 4
                                         async := { AsyncRegs.atReset 2 with sinceChange := 7 } } with
      | .next t => t.async.sinceChange
      | _ => 1) = 0 ∧
    (match execReset { ready 4 0 0xFFFFFFFF [] with
        params := { Config.params with asyncFlags := true }
        async := { AsyncRegs.atReset 2 with sinceJump := 7 } } with
      | .next t => t.async.sinceJump
      | _ => 1) = 0 ∧
    (match execGet 1 { ready 4 2 0 [(0, 1), (1, 2)] with
        params := { Config.params with asyncFlags := true }
        async := { AsyncRegs.atReset 2 with sinceJump := 7 } } with
      | .next t => t.async.sinceJump
      | _ => 0) = 7 := by decide
/-- R195 -/
theorem test_rdByte_reset : rdByte ⟨true, 0, []⟩ State.reset 0 = 0 := by decide
/-- R270 H2: a RELEASE issued while a PUT is in flight is a breach, though the PUT would have returned before its
effect. -/
theorem test_breach_at_issue :
    (match step { ask (.put 1) [1] (ready 4 0 0 []) with script := [.issue 1 0x800000000 []] } with
      | .fault .notQuiescent => true
      | _ => false) = true := by decide

/-! ### Sample states for the witnesses -/

/-- One requester has an operation in flight: the others are idle. -/
theorem slotAt_one (x : Slot) (r : Nat) (h : r ≠ 0) : slotAt [x] r = .idle := by
  obtain ⟨k, rfl⟩ := Nat.exists_eq_succ_of_ne_zero h
  cases k <;> rfl

/-- A READY state without a lock whose first requester is not inside the port level meets the invariant, when its
storage and cursors do. -/
theorem inv_ready {cap wc rc : Nat} {m : Memory} (xs : List Slot)
    (hx : xs = [] ∨ ∃ op, xs = [.issued op])
    (hm : m.wf = true ∧ m.within 4096 = true)
    (hw : wc < 2 ^ 32 ∧ rc < 2 ^ 32 ∧ cap < 2 ^ 32)
    (hc : isPow2 32 cap = true ∧ cap ≤ 4096 ∧ wsub 32 wc rc ≤ cap)
    (ho : ((List.range (wsub 32 wc rc)).all fun j =>
      (m.read (cellIndex 32 (wsub 32 cap 1) rc j)).isSome) = true) :
    Inv { ready cap wc rc m with slots := xs } := by
  have hs : ∀ r, slotAt xs r = .idle ∨ ∃ op, slotAt xs r = .issued op := by
    intro r
    rcases hx with rfl | ⟨op, rfl⟩
    · cases r <;> exact .inl rfl
    · cases r with
      | zero => exact .inr ⟨op, rfl⟩
      | succ r => exact .inl (slotAt_one _ _ (Nat.succ_ne_zero r))
  refine ⟨hm, hw, fun _ => hc, by simp [fatalInv, ready, State.reset], fun _ j hj => ?_, fun r hr => ?_, ⟨?_, ?_⟩, ?_⟩
  · exact List.all_eq_true.mp ho j (List.mem_range.mpr hj)
  · rcases hx with rfl | ⟨op, rfl⟩
    · cases r <;> rfl
    · exact slotAt_one _ _ (by rintro rfl; exact absurd (show 2 ≤ 0 from hr) (by decide))
  · intro g hg; cases hg
  · intro r w bs h
    rcases hs r with h' | ⟨op, h'⟩ <;> exact absurd (h'.symm.trans h) (by simp)
  · intro g hg; cases hg

/-- The bytes `43 44 45` in a buffer of capacity 4 (95_test_vectors.md A2, step 9). -/
def holding : State := ready 4 5 2 [(0, 0x45), (2, 0x43), (3, 0x44)]

/-- An empty buffer of capacity 4. -/
def emptied : State := ready 4 0 0 []

/-- Requester 0 inside the data phase of `PUT 2`, one byte taken (R198). -/
def putting : State :=
  { ready 4 0 0 [(0, 0x41)] with
    lock := .held 0, slots := [.executing 0x600000002 [0x41]], curOp := 6, curArg := 2, curN := 2, beat := 1
    phase := .data }

/-- A block with the option, settled (R216). -/
def settledState : State :=
  { ready 4 0 0 [] with
    params := { Config.params with asyncFlags := true }
    async := { AsyncRegs.atReset 2 with sinceChange := 3, sinceJump := 3 } }

theorem test_inv_holding : Inv holding := inv_ready [] (.inl rfl) (by decide) (by decide) (by decide) (by decide)
theorem test_inv_emptied : Inv emptied := inv_ready [] (.inl rfl) (by decide) (by decide) (by decide) (by decide)
theorem test_inv_asked (i : Instr) (d : List Byte) : Inv (ask i d holding) :=
  inv_ready [.issued ⟨encode 32 i, some d⟩] (.inr ⟨_, rfl⟩) (by decide) (by decide) (by decide) (by decide)
theorem test_inv_askedEmpty (i : Instr) (d : List Byte) : Inv (ask i d emptied) :=
  inv_ready [.issued ⟨encode 32 i, some d⟩] (.inr ⟨_, rfl⟩) (by decide) (by decide) (by decide) (by decide)

theorem test_inv_putting : Inv putting := by
  refine ⟨⟨rfl, rfl⟩, by unfold widthInv; decide, fun _ => by decide, by simp [fatalInv, putting, ready, State.reset], fun _ j hj => absurd hj (Nat.not_lt_zero _), fun r hr => ?_,
    ⟨?_, ?_⟩, ?_⟩
  · exact slotAt_one _ _ (by rintro rfl; exact absurd hr (by decide))
  · rintro g ⟨⟩
    exact ⟨rfl, 0x600000002, rfl, by decide, by decide, by decide⟩
  · intro r w bs h
    cases r with
    | zero => rfl
    | succ r => exact absurd ((slotAt_one _ _ (Nat.succ_ne_zero r)).symm.trans h) (by simp)
  · rintro g ⟨⟩
    refine .inl ⟨2, by decide, rfl, by decide, by decide, rfl, ?_⟩
    intro i hi
    obtain rfl : i = 0 := Nat.lt_one_iff.mp hi
    rfl

/-- The same with requester 1 waiting for the lock. -/
theorem test_inv_puttingWaited :
    Inv { putting with slots := [.executing 0x600000002 [0x41], .presented 0x500000000] } := by
  refine ⟨test_inv_putting.storage, test_inv_putting.width, test_inv_putting.cursors, test_inv_putting.fatal,
    test_inv_putting.occupied, fun r hr => ?_, ⟨?_, ?_⟩, ?_⟩
  · match r with
    | 0 => exact absurd (show 2 ≤ 0 from hr) (by decide)
    | 1 => exact absurd (show 2 ≤ 1 from hr) (by decide)
    | r + 2 => cases r <;> rfl
  · rintro g ⟨⟩
    exact ⟨rfl, 0x600000002, rfl, by decide, by decide, by decide⟩
  · intro r w bs h
    match r with
    | 0 => rfl
    | 1 => cases h
    | r + 2 => cases r <;> cases h
  · rintro g ⟨⟩
    refine .inl ⟨2, by decide, rfl, by decide, by decide, rfl, ?_⟩
    intro i hi
    obtain rfl : i = 0 := Nat.lt_one_iff.mp hi
    rfl

/-- Requester 0 inside the data phase of `GET 2`, no byte taken. -/
def getting : State :=
  { holding with
    lock := .held 0, slots := [.executing 0x700000002 []], curOp := 7, curArg := 2, curN := 2, phase := .data }

theorem test_inv_getting : Inv getting := by
  refine ⟨⟨rfl, rfl⟩, by unfold widthInv; decide, fun _ => by decide, test_inv_holding.fatal, fun _ j hj => ?_, fun r hr => ?_, ⟨?_, ?_⟩, ?_⟩
  · exact test_inv_holding.occupied rfl j hj
  · exact slotAt_one _ _ (by rintro rfl; exact absurd (show 2 ≤ 0 from hr) (by decide))
  · rintro g ⟨⟩
    exact ⟨rfl, 0x700000002, rfl, by decide, by decide, by decide⟩
  · intro r w bs h
    cases r with
    | zero => rfl
    | succ r => exact absurd ((slotAt_one _ _ (Nat.succ_ne_zero r)).symm.trans h) (by simp)
  · rintro g ⟨⟩
    exact .inr ⟨2, by decide, by decide, by decide, rfl, fun i hi => absurd hi (Nat.not_lt_zero _)⟩

/-- Requester 0 has its LEN answered. -/
def answered : State := { holding with slots := [.answered 0x500000000 ⟨.ok, 3, []⟩] }

theorem test_inv_answered : Inv answered := by
  refine ⟨⟨rfl, rfl⟩, by unfold widthInv; decide, fun _ => by decide, test_inv_holding.fatal, fun _ j hj => ?_, fun r hr => ?_, ⟨?_, ?_⟩, ?_⟩
  · exact test_inv_holding.occupied rfl j hj
  · exact slotAt_one _ _ (by rintro rfl; exact absurd (show 2 ≤ 0 from hr) (by decide))
  · intro g hg; cases hg
  · intro r w bs h
    cases r with
    | zero => cases h
    | succ r => exact absurd ((slotAt_one _ _ (Nat.succ_ne_zero r)).symm.trans h) (by simp)
  · intro g hg; cases hg

theorem test_sync_settled : grayInv settledState ∧ syncInv settledState := by
  refine ⟨fun _ => by decide, fun _ => ⟨⟨rfl, fun _ => rfl, ?_⟩, ⟨rfl, fun _ => rfl, ?_⟩⟩⟩ <;>
  · intro i _ hi
    have hi : i < 2 := hi
    obtain rfl | rfl : i = 0 ∨ i = 1 := by omega
    · rfl
    · rfl

/-! ### Witnesses: concrete states and operands that meet all hypotheses of an obligation together -/

theorem witness_DecodeOfEncode :
    (Instr.init 0).WellFormed 32 ∧ (Instr.put 0xFFFFFFFF).WellFormed 32 ∧ Instr.release.WellFormed 64 := by decide
theorem witness_DecodeIsTotal :
    0xFFFFFFFFF < 2 ^ (32 + 4) ∧ decode 32 0x100000000 = .command (.init 0) ∧
    decode 32 0x8FFFFFFFF = .command .release ∧ decode 32 0x0FFFFFFFF = .reserved 0 ∧
    decode 32 0x900000000 = .reserved 9 ∧ decode 32 0xFFFFFFFFF = .reserved 15 := by decide
theorem witness_ResponseWordLayout : 0xFFFFFFFF < 2 ^ 32 := by decide
theorem witness_StepRunsDecodedOperation :
    (ask .len [] holding).slot 0 = .issued ⟨0x500000000, some []⟩ ∧ decode 32 0x500000000 = .command .len ∧
    (ask .len [] holding).script = [] ∧ (ask .len [] holding).turn = 0 := by decide
theorem witness_StepRunsDecodedOperation_effect :
    ({ ask .len [] holding with script := [.effect 0], turn := 1 } : State).slot 0 =
      .issued ⟨0x500000000, some []⟩ ∧
    decode 32 0x500000000 = .command .len ∧
    ({ ask .len [] holding with script := [.effect 0], turn := 1 } : State).script = .effect 0 :: [] := by decide
theorem witness_FetchedWordRuns :
    32 ≤ State.reset.params.width ∧ decodeTableWord 36 0x6FFFFFFFF = some (.put 0xFFFFFFFF) := by decide

theorem witness_IssueAndReturn :
    let s : State := { holding with script := [.issue 1 0x500000000 []] }
    s.script = .issue 1 0x500000000 [] :: [] ∧ s.life ≠ .fatal ∧ 1 < s.params.nReq ∧ s.slot 1 = .idle ∧
    (∀ r', r' ≠ 1 → (s.slot r').needsQuiet s.params.width = false) ∧
    (wordNeedsQuiet s.params.width 0x500000000 = true → ∀ r', r' ≠ 1 → s.slot r' = .idle) :=
  ⟨rfl, by decide, by decide, rfl, fun r' _ => by cases r' <;> rfl, fun h => absurd h (by decide)⟩
theorem witness_IssueAndReturn_ret :
    let s : State := { holding with slots := [.answered 0x500000000 ⟨.ok, 3, []⟩], script := [.ret 0] }
    s.script = .ret 0 :: [] ∧ s.life ≠ .fatal ∧ s.slot 0 = .answered 0x500000000 ⟨.ok, 3, []⟩ := by decide

/-- Requester 0's INIT in UNINIT and in RELEASED: the smallest and the largest capacity. -/
theorem witness_InitCreatesBuffer :
    let s := ask (.init 1) [] State.reset
    let u := ask (.init 4096) [] { State.reset with life := .released }
    (s.life = .uninit ∧ (∀ r, r ≠ s.turn → s.slot r = .idle) ∧ s.lock = .free ∧
      (∃ k, k < s.params.width ∧ 1 = 2 ^ k) ∧ 1 ≤ s.params.maxCapacity) ∧
    (u.life = .released ∧ (∀ r, r ≠ u.turn → u.slot r = .idle) ∧ u.lock = .free ∧
      (∃ k, k < u.params.width ∧ 4096 = 2 ^ k) ∧ 4096 ≤ u.params.maxCapacity) :=
  ⟨⟨rfl, fun r h => slotAt_one _ r h, rfl, ⟨0, by decide, by decide⟩, by decide⟩,
   ⟨rfl, fun r h => slotAt_one _ r h, rfl, ⟨12, by decide, by decide⟩, by decide⟩⟩
theorem witness_InitFatalFault :
    let s := ask (.init 0) [] State.reset
    let u := ask (.init 0xFFFFFFFF) [] State.reset
    (s.life = .uninit ∧ (∀ r, r ≠ s.turn → s.slot r = .idle) ∧ s.lock = .free ∧
      ∀ k, k < s.params.width → 0 ≠ 2 ^ k) ∧
    (u.life = .uninit ∧ (∀ r, r ≠ u.turn → u.slot r = .idle) ∧ u.lock = .free ∧
      ∀ k, k < u.params.width → 0xFFFFFFFF ≠ 2 ^ k) :=
  ⟨⟨rfl, fun r h => slotAt_one _ r h, rfl, by decide⟩, ⟨rfl, fun r h => slotAt_one _ r h, rfl, by decide⟩⟩
theorem witness_InitAllocationFailure :
    let s := ask (.init 8192) [] State.reset
    s.life = .uninit ∧ (∀ r, r ≠ s.turn → s.slot r = .idle) ∧ s.lock = .free ∧
    (∃ k, k < s.params.width ∧ 8192 = 2 ^ k) ∧ s.params.maxCapacity < 8192 :=
  ⟨rfl, fun r h => slotAt_one _ r h, rfl, ⟨13, by decide, by decide⟩, by decide⟩
theorem witness_InitWhenReadyRefused :
    let s := ask (.init 3) [] holding
    s.life = .ready ∧ (∀ r, r ≠ s.turn → s.slot r = .idle) ∧ s.lock = .free :=
  ⟨rfl, fun r h => slotAt_one _ r h, rfl⟩
theorem witness_ReleaseFreesBuffer :
    let s := ask .release [] holding
    s.life = .ready ∧ (∀ r, r ≠ s.turn → s.slot r = .idle) ∧ s.lock = .free :=
  ⟨rfl, fun r h => slotAt_one _ r h, rfl⟩
theorem witness_StorageUnspecified :
    (∃ t, exec (.init 4) (ask (.init 4) [] State.reset) = .next t ∧
      (ask (.init 4) [] State.reset).life ≠ .ready ∧ t.life = .ready) ∧
    (∃ t, exec .release (ask .release [] holding) = .next t ∧ (ask .release [] holding).life = .ready) ∧
    (∃ t, clkEdge ⟨true, 0, []⟩ holding = .next t) :=
  ⟨⟨_, rfl, by decide, rfl⟩, ⟨_, rfl, rfl⟩, ⟨_, rfl⟩⟩
/-- Another requester has an operation in flight; the lock is held. -/
theorem witness_QuiescenceBreachFaults :
    let s : State := { State.reset with slots := [.issued ⟨0x100000004, none⟩, .issued ⟨0x500000000, none⟩] }
    (s.life ≠ .fatal ∧ ∃ r, r ≠ s.turn ∧ s.slot r ≠ .idle) ∧ (putting.life ≠ .fatal ∧ putting.lock ≠ .free) :=
  ⟨⟨by decide, 1, by decide, by decide⟩, by decide⟩
theorem witness_ResetEmptiesBuffer :
    (ask .reset [] holding).life = .ready ∧ (ask .reset [] holding).lock = .free := by decide
theorem witness_UnlockedQueriesAnswer :
    (ask .isEmpty [] holding).life = .ready ∧ holding.wc ≠ holding.rc ∧ wsub 32 holding.wc holding.rc ≠ holding.cap ∧
    (ask .isEmpty [] emptied).life = .ready ∧ emptied.wc = emptied.rc ∧
    (ask .isFull [] (ready 4 6 2 [])).life = .ready ∧ wsub 32 6 2 = 4 := by decide
theorem witness_LenAnswersOccupancy :
    (ask .len [] holding).life = .ready ∧ (ask .len [] holding).lock = .free := by decide

/-- A PUT of the whole free space, and a PUT of nothing. -/
theorem witness_PutStoresBytes :
    let s := ask (.put 1) [0x46] holding
    let u := ask (.put 0) [] holding
    (s.life = .ready ∧ s.lock = .free ∧ s.slot s.turn = .issued ⟨0x600000001, some [0x46]⟩ ∧
      (∃ k, k < s.params.width ∧ s.cap = 2 ^ k) ∧ s.cap ≤ s.params.maxCapacity ∧
      wsub s.params.width s.wc s.rc ≤ s.cap ∧ 1 ≤ s.cap - wsub s.params.width s.wc s.rc ∧
      1 ≤ [(0x46 : Byte)].length) ∧
    (u.life = .ready ∧ u.lock = .free ∧ u.slot u.turn = .issued ⟨0x600000000, some []⟩ ∧
      (∃ k, k < u.params.width ∧ u.cap = 2 ^ k) ∧ u.cap ≤ u.params.maxCapacity ∧
      wsub u.params.width u.wc u.rc ≤ u.cap ∧ 0 ≤ u.cap - wsub u.params.width u.wc u.rc ∧
      0 ≤ ([] : List Byte).length) :=
  ⟨⟨rfl, rfl, rfl, ⟨2, by decide, by decide⟩, by decide, by decide, by decide, by decide⟩,
   ⟨rfl, rfl, rfl, ⟨2, by decide, by decide⟩, by decide, by decide, by decide, by decide⟩⟩
theorem witness_PutAllOrNothing :
    let s := ask (.put 2) [0x46, 0x47] holding
    s.life = .ready ∧ s.lock = .free ∧ s.slot s.turn = .issued ⟨0x600000002, some [0x46, 0x47]⟩ ∧
    2 ≤ [(0x46 : Byte), 0x47].length ∧
    wsub s.params.width s.cap (wsub s.params.width s.wc s.rc) < 2 := by decide
/-- A PUT that would fit, and one that would not. -/
theorem witness_PutShortDataRefused :
    let s := ask (.put 1) [] holding
    let u := ask (.put 9) [1] holding
    (s.life ≠ .fatal ∧ s.slot s.turn = .issued ⟨0x600000001, some []⟩ ∧ ([] : List Byte).length < 1) ∧
    (u.life ≠ .fatal ∧ u.slot u.turn = .issued ⟨0x600000009, some [1]⟩ ∧ [(1 : Byte)].length < 9) := by decide
/-- The premises do not mention the request: the clauses on `n` are met by a request of 3 (all) and of 2 (part). -/
theorem witness_GetDeliversBytes :
    let s := ask (.get 3) [] holding
    s.life = .ready ∧ s.lock = .free ∧ s.wc ≠ s.rc ∧ s.wc < 2 ^ s.params.width ∧
    (∃ k, k < s.params.width ∧ s.cap = 2 ^ k) ∧ s.cap ≤ s.params.maxCapacity ∧
    (∀ i, i < wsub s.params.width s.wc s.rc →
      (s.storage.read (cellIndex s.params.width (s.cap - 1) s.rc i)).isSome = true) ∧
    min 3 (wsub s.params.width s.wc s.rc) = wsub s.params.width s.wc s.rc ∧
    min 2 (wsub s.params.width s.wc s.rc) ≠ wsub s.params.width s.wc s.rc :=
  ⟨rfl, rfl, by decide, by decide, ⟨2, by decide, by decide⟩, by decide, by decide, by decide, by decide⟩
theorem witness_GetOnEmptyRejected :
    (ask (.get 0) [] emptied).life = .ready ∧ (ask (.get 0) [] emptied).lock = .free ∧
    (ask (.get 0) [] emptied).wc = (ask (.get 0) [] emptied).rc := by decide
theorem witness_OutsideReadyBadState :
    let s := ask .release [] State.reset
    s.life = .uninit ∧ (∀ c, Instr.release ≠ .init c) ∧ (∀ r, r ≠ s.turn → s.slot r = .idle) ∧ s.lock = .free :=
  ⟨rfl, fun _ => Instr.noConfusion, fun r h => slotAt_one _ r h, rfl⟩
theorem witness_OutsideReadyBadState_put :
    let s := ask (.put 2) [1, 2] { State.reset with life := .released }
    s.life = .released ∧ (∀ c, Instr.put 2 ≠ .init c) ∧ Instr.put 2 ≠ .release ∧
    (∀ n w data, Instr.put 2 = .put n → s.slot s.turn = .issued ⟨w, some data⟩ → n ≤ data.length) := by
  refine ⟨rfl, fun _ => Instr.noConfusion, by decide, ?_⟩
  rintro n w data ⟨⟩ h
  have h : Slot.issued ⟨0x600000002, some [1, 2]⟩ = .issued ⟨w, some data⟩ := h
  injection h with h
  injection h with _ h
  injection h with h
  subst h
  decide
theorem witness_HeldLockMakesWait :
    putting.life = .ready ∧ putting.lock = .held 0 ∧ ∀ op, putting.slot putting.turn ≠ .issued op :=
  ⟨rfl, rfl, by intro op h; cases h⟩
/-- A command, an edge without `rst`, and a hardware reset. -/
theorem witness_FatalAcceptsNothing :
    let s := ask .len [] { State.reset with life := .fatal, fatal := true }
    s.life = .fatal ∧ s.script = [] ∧
    ({ s with script := [.edge ⟨false, 0, []⟩] } : State).script = .edge ⟨false, 0, []⟩ :: [] ∧
    ({ s with script := [.edge ⟨true, 0, []⟩] } : State).script = .edge ⟨true, 0, []⟩ :: [] := by decide
theorem witness_ReservedOpAnswered :
    let s := issuedBy State.reset 0 0x9FFFFFFFF (some [])
    let u := issuedBy holding 0 0x000000000 none
    (s.life ≠ .fatal ∧ s.script = [] ∧ s.slot s.turn = .issued ⟨0x9FFFFFFFF, some []⟩ ∧
      9 ≤ (opField s.params.width 0x9FFFFFFFF).toNat) ∧
    (u.life ≠ .fatal ∧ u.script = [] ∧ u.slot u.turn = .issued ⟨0x000000000, none⟩ ∧
      (opField u.params.width 0x000000000).toNat = 0) := by decide
theorem witness_RejectionsChangeNothing :
    (ask (.get 1) [] emptied).slot 0 = .issued ⟨0x700000001, some []⟩ ∧
    ∃ t, serve (ask (.get 1) [] emptied) = .next t ∧
      t.slot 0 = .answered 0x700000001 ⟨.bufferEmpty, 1, []⟩ ∧ Status.bufferEmpty ≠ .ok :=
  ⟨rfl, _, rfl, by decide, by decide⟩

/-- One step for each transition of `life`. -/
theorem witness_LifeTransitions :
    (∃ t, step { holding with script := [.edge ⟨true, 0, []⟩] } = .next t ∧ t.life = .uninit) ∧
    (∃ t, step (ask (.init 4) [] State.reset) = .next t ∧ t.life = .ready) ∧
    (∃ t, step (ask .release [] holding) = .next t ∧ t.life = .released) ∧
    (∃ t, step (ask (.init 3) [] State.reset) = .next t ∧ t.life = .fatal) :=
  ⟨⟨_, rfl, rfl⟩, ⟨_, rfl, rfl⟩, ⟨_, rfl, rfl⟩, ⟨_, rfl, rfl⟩⟩
theorem witness_CapacityWrittenByInitOnly :
    (∃ t, step { holding with script := [.edge ⟨true, 0, []⟩] } = .next t ∧ t.cap ≠ holding.cap) ∧
    (∃ t, step (ask (.init 4) [] State.reset) = .next t ∧ t.cap ≠ State.reset.cap) :=
  ⟨⟨_, rfl, by decide⟩, ⟨_, rfl, by decide⟩⟩
theorem witness_ParametersNeverChange : ∃ t, step (ask .len [] holding) = .next t := ⟨_, rfl⟩
theorem witness_HardwareReset :
    ({ putting with script := [.edge ⟨true, 0, []⟩] } : State).script = .edge ⟨true, 0, []⟩ :: [] ∧
    (⟨true, 0, []⟩ : PortIn).rst = true := by decide
theorem witness_StepKeepsStorageForm :
    storageInv (ask (.put 1) [0x46] holding) ∧ ∃ t, step (ask (.put 1) [0x46] holding) = .next t :=
  ⟨(test_inv_asked _ _).storage, _, rfl⟩
theorem witness_StepKeepsInvariant :
    Inv (ask (.put 1) [0x46] holding) ∧ ∃ t, step (ask (.put 1) [0x46] holding) = .next t :=
  ⟨test_inv_asked _ _, _, rfl⟩
theorem witness_NoUnspecifiedByte : Inv (ask (.get 3) [] holding) := test_inv_asked _ _

theorem witness_PutAppends :
    let s := ask (.put 1) [0x46] holding
    Inv s ∧ s.life = .ready ∧ s.lock = .free ∧ s.slot s.turn = .issued ⟨0x600000001, some [0x46]⟩ ∧
    contents s = .ok [0x43, 0x44, 0x45] ∧ 1 ≤ s.cap - wsub s.params.width s.wc s.rc ∧
    1 ≤ [(0x46 : Byte)].length :=
  ⟨test_inv_asked _ _, rfl, rfl, rfl, by rfl, by decide, by decide⟩
theorem witness_GetTakesFront :
    let s := ask (.get 2) [] holding
    Inv s ∧ s.life = .ready ∧ s.lock = .free ∧ contents s = .ok [0x43, 0x44, 0x45] ∧
    ([0x43, 0x44, 0x45] : List Byte) ≠ [] :=
  ⟨test_inv_asked _ _, rfl, rfl, by rfl, by decide⟩
theorem witness_RoundTrip :
    let s := ask (.put 4) [1, 2, 3, 4] emptied
    Inv s ∧ s.life = .ready ∧ s.lock = .free ∧ s.wc = s.rc ∧
    s.slot s.turn = .issued ⟨0x600000004, some [1, 2, 3, 4]⟩ ∧
    ([1, 2, 3, 4] : List Byte).length = 4 ∧ 4 ≠ 0 ∧ 4 ≤ s.cap ∧ 4 ≤ 0xFFFFFFFF :=
  ⟨test_inv_askedEmpty _ _, rfl, rfl, rfl, rfl, rfl, by decide, by decide, by decide⟩
theorem witness_PutKeepsOccupiedBytes :
    widthInv (ask (.put 1) [0x46] holding) ∧ cursorInv (ask (.put 1) [0x46] holding) ∧
    (ask (.put 1) [0x46] holding).life = .ready ∧ ∃ t, exec (.put 1) (ask (.put 1) [0x46] holding) = .next t :=
  ⟨(test_inv_asked _ _).width, (test_inv_asked _ _).cursors, rfl, _, rfl⟩
theorem witness_ComparatorRelations : widthInv holding ∧ cursorInv holding ∧ holding.life = .ready :=
  ⟨test_inv_holding.width, test_inv_holding.cursors, rfl⟩
/-- Unbounded cursors beyond `2^32`, the occupancy at its bound. -/
theorem witness_CursorWrapHarmless :
    (∃ k, k < 32 ∧ 4 = 2 ^ k) ∧ 2 ^ 32 - 3 ≤ 2 ^ 32 + 1 ∧ 2 ^ 32 + 1 - (2 ^ 32 - 3) ≤ 4 :=
  ⟨⟨2, by decide, by decide⟩, by decide, by decide⟩
/-- B8, first row: byte 1 is the last of the first segment, byte 2 the first of the second. -/
theorem witness_TwoSegmentCopy :
    (∃ k, k < 32 ∧ 8 = 2 ^ k) ∧ 4 ≤ 8 ∧ 1 < 4 ∧ 2 < 4 ∧ 1 < min 4 (8 - (6 &&& 7)) ∧ ¬ 2 < min 4 (8 - (6 &&& 7)) :=
  ⟨⟨3, by decide, by decide⟩, by decide, by decide, by decide, by decide, by decide⟩

theorem idle_of_noSlots (s : State) (h : s.slots = []) (r : Nat) : s.slot r = .idle := by
  unfold State.slot; rw [h]; cases r <;> rfl

/-- IS_EMPTY, INIT and a reserved word, with the lock free. -/
theorem witness_ImmediateCommandOverPorts :
    (holding.life ≠ .fatal ∧ holding.lock = .free ∧ 1 < holding.params.nReq ∧ (∀ r, holding.slot r = .idle) ∧
      0xFFFFFFFFF < 2 ^ (holding.params.width + 4) ∧
      lockTaking 32 holding.life 0x300000000 = false ∧ lockTaking 32 holding.life 0xFFFFFFFFF = false) ∧
    (State.reset.life ≠ .fatal ∧ State.reset.lock = .free ∧ 0 < State.reset.params.nReq ∧
      (∀ r, State.reset.slot r = .idle) ∧ lockTaking 32 State.reset.life 0x100000004 = false) :=
  ⟨⟨by decide, rfl, by decide, idle_of_noSlots _ rfl, by decide, by decide, by decide⟩,
   ⟨by decide, rfl, by decide, idle_of_noSlots _ rfl, by decide⟩⟩
/-- The same while requester 0 holds the lock. -/
theorem witness_ImmediateCommandOverPorts_held :
    Inv putting ∧ putting.lock = .held 0 ∧ 1 ≠ 0 ∧ 1 < putting.params.nReq ∧ (∀ r, r ≠ 0 → putting.slot r = .idle) ∧
    0x900000000 < 2 ^ (putting.params.width + 4) ∧ decode 32 0x300000000 = .command .isEmpty ∧
    decode 32 0x400000000 = .command .isFull ∧ decode 32 0x900000000 = .reserved (opField 32 0x900000000) :=
  ⟨test_inv_putting, rfl, by decide, by decide, fun r h => slotAt_one _ r h, by decide, by decide, by decide,
   by decide⟩
theorem witness_ShortCommandOverPorts :
    holding.life = .ready ∧ holding.lock = .free ∧ 1 < holding.params.nReq ∧ (∀ r, holding.slot r = .idle) ∧
    (Instr.put 2).WellFormed holding.params.width ∧ holding.avail < 2 ∧ emptied.life = .ready ∧
    emptied.lock = .free ∧ 1 < emptied.params.nReq ∧ (∀ r, emptied.slot r = .idle) ∧ emptied.wc = emptied.rc :=
  ⟨rfl, rfl, by decide, idle_of_noSlots _ rfl, by decide, by decide, rfl, rfl, by decide, idle_of_noSlots _ rfl,
   rfl⟩
theorem witness_PutOverPorts :
    Inv holding ∧ holding.life = .ready ∧ holding.lock = .free ∧ 1 < holding.params.nReq ∧
    (∀ r, holding.slot r = .idle) ∧ 1 ≠ 0 ∧ 1 ≤ holding.avail ∧ [(0x46 : Byte)].length = 1 :=
  ⟨test_inv_holding, rfl, rfl, by decide, idle_of_noSlots _ rfl, by decide, by decide, rfl⟩
theorem witness_GetOverPorts :
    Inv holding ∧ holding.life = .ready ∧ holding.lock = .free ∧ 1 < holding.params.nReq ∧
    (∀ r, holding.slot r = .idle) ∧ holding.wc ≠ holding.rc ∧ 0xFFFFFFFF ≠ 0 ∧
    0xFFFFFFFF < 2 ^ holding.params.width :=
  ⟨test_inv_holding, rfl, rfl, by decide, idle_of_noSlots _ rfl, by decide, by decide, by decide⟩
/-- A PUT without its byte while requester 1 waits for the lock, and a GET without readiness. -/
theorem witness_PutWaitsForItsByte :
    let inp : PortIn := ⟨false, 0, [ReqIn.rest, presenting 0x500000000]⟩
    let s : State := { putting with slots := [.executing 0x600000002 [0x41], .presented 0x500000000] }
    Inv s ∧ inp.rst = false ∧ s.lock = .held 0 ∧ (inp.req 0).cmdValid = false ∧
    (inPutData s 0 = true ∧ (inp.req 0).wdValid = false) ∧
    ∀ r, r ≠ 0 →
      (s.slot r = .idle ∧ (inp.req r).cmdValid = false) ∨
      (∃ w, s.slot r = .presented w ∧ (inp.req r).cmdValid = true ∧
        wireWord s.params.width (inp.req r).cmdWord = w ∧ lockTaking s.params.width .ready w = true) := by
  refine ⟨test_inv_puttingWaited, rfl, rfl, rfl, by decide, fun r hr => ?_⟩
  match r with
  | 0 => exact absurd rfl hr
  | 1 => exact .inr ⟨0x500000000, rfl, rfl, by decide, by decide⟩
  | r + 2 => exact .inl ⟨by cases r <;> rfl, rfl⟩
theorem witness_PutWaitsForItsByte_get :
    let inp : PortIn := soloInput 0 ReqIn.rest
    Inv getting ∧ inp.rst = false ∧ getting.lock = .held 0 ∧ (inp.req 0).cmdValid = false ∧
    (inGetData getting 0 = true ∧ (inp.req 0).rdReady = false) ∧
    ∀ r, r ≠ 0 → getting.slot r = .idle ∧ (inp.req r).cmdValid = false :=
  ⟨test_inv_getting, rfl, rfl, rfl, by decide, fun r h => ⟨slotAt_one _ r h, by
    obtain ⟨k, rfl⟩ := Nat.exists_eq_succ_of_ne_zero h; rfl⟩⟩
/-- An immediate command while the lock is held, and a lock-taking one while it is free. -/
theorem witness_CommandAcceptance :
    let a := soloInput 1 (presenting 0x300000000)
    let b := soloInput 1 (presenting 0x500000000)
    (a.rst = false ∧ putting.life ≠ .fatal ∧ 1 < putting.params.nReq ∧ presents a putting 1 = true ∧
      lockTaking 32 putting.life (a.req 1).cmdWord = false) ∧
    (cmdReady b holding 1 = true ∧ lockTaking 32 holding.life (b.req 1).cmdWord = true) ∧
    (b.rst = false ∧ holding.lock = .free ∧ 1 ∈ waiting b holding) := by decide
/-- Two requesters wait; the second is taken. -/
theorem witness_AnyWaitingMayBeNext :
    holding.lock = .free ∧
    1 ∈ waiting ⟨false, 0, [presenting 0x500000000, presenting 0x200000000]⟩ holding := by decide
theorem witness_SilentPorts :
    (⟨true, 0, []⟩ : PortIn).rst = true ∧
    (fatalInv { State.reset with life := .fatal, fatal := true } ∧
      ({ State.reset with life := .fatal, fatal := true } : State).life = .fatal) := by
  refine ⟨rfl, by simp [fatalInv], rfl⟩
/-- Requester 0 in a data phase, requester 1 not holding the lock; requester 0 answered. -/
theorem witness_DataAndResponsePins :
    (Inv putting ∧ putting.life ≠ .fatal ∧ inPutData putting 0 = true ∧ putting.lock ≠ .held 1) ∧
    (Inv getting ∧ getting.life ≠ .fatal ∧ inGetData getting 0 = true) ∧
    (Inv answered ∧ answered.life ≠ .fatal ∧ answered.slot 0 = .answered 0x500000000 ⟨.ok, 3, []⟩) ∧
    (soloInput 0 ReqIn.rest).rst = false :=
  ⟨⟨test_inv_putting, by decide, by decide, by decide⟩, ⟨test_inv_getting, by decide, by decide⟩,
   ⟨test_inv_answered, by decide, rfl⟩, rfl⟩
theorem witness_FlagPinsShowFlags : (ask .isEmpty [] holding).life = .ready := rfl
/-- A second issue; the issue of RELEASE while a LEN is in flight; the issue of LEN while an INIT is. -/
theorem witness_SecondCommandRefused :
    let s : State := { ask .len [] holding with script := [.issue 0 0x500000000 []] }
    let u : State := { ask .len [] holding with script := [.issue 1 0x800000000 []] }
    let v : State := { ask (.init 4) [] State.reset with script := [.issue 1 0x500000000 []] }
    (s.script = .issue 0 0x500000000 [] :: [] ∧ s.life ≠ .fatal ∧ 0 < s.params.nReq ∧ s.slot 0 ≠ .idle) ∧
    (u.script = .issue 1 0x800000000 [] :: [] ∧ u.life ≠ .fatal ∧ 1 < u.params.nReq ∧ u.slot 1 = .idle ∧
      wordNeedsQuiet u.params.width 0x800000000 = true ∧ ∃ r', r' ≠ 1 ∧ u.slot r' ≠ .idle) ∧
    (v.script = .issue 1 0x500000000 [] :: [] ∧ v.life ≠ .fatal ∧ 1 < v.params.nReq ∧ v.slot 1 = .idle ∧
      ∃ r', r' ≠ 1 ∧ (v.slot r').needsQuiet v.params.width = true) :=
  ⟨by decide, ⟨rfl, by decide, by decide, rfl, by decide, 0, by decide, by decide⟩,
   ⟨rfl, by decide, by decide, rfl, 0, by decide, by decide⟩⟩
/-- A command while one executes, while a response is given; a waiting command withdrawn, and one changed. -/
theorem witness_SecondCommandRefused_port :
    let inp := soloInput 0 (presenting 0x500000000)
    let s : State := { holding with slots := [.presented 0x200000000] }
    (inp.rst = false ∧ putting.life ≠ .fatal ∧ 0 < putting.params.nReq ∧ (inp.req 0).cmdValid = true ∧
      ∃ w bs, putting.slot 0 = .executing w bs) ∧
    (answered.life ≠ .fatal ∧ 0 < answered.params.nReq ∧ ∃ w rsp, answered.slot 0 = .answered w rsp) ∧
    (s.life ≠ .fatal ∧ 0 < s.params.nReq ∧ s.slot 0 = .presented 0x200000000 ∧
      ((soloInput 0 ReqIn.rest).req 0).cmdValid = false ∧
      wireWord s.params.width (inp.req 0).cmdWord ≠ 0x200000000) :=
  ⟨⟨rfl, by decide, by decide, rfl, _, _, rfl⟩, ⟨by decide, by decide, _, _, rfl⟩, by decide⟩
/-- RELEASE is presented while requester 0 executes a PUT; LEN is presented while requester 0's INIT is answered. -/
theorem witness_SecondCommandRefused_breach :
    let u : State := { State.reset with slots := [.answered 0x100000004 ⟨.ok, 4, []⟩] }
    (putting.life ≠ .fatal ∧ 1 < putting.params.nReq ∧ putting.slot 1 = .idle ∧
      (∀ r' w, putting.slot r' ≠ .presented w) ∧
      wordNeedsQuiet putting.params.width 0x800000000 = true ∧ ∃ r', r' ≠ 1 ∧ putting.slot r' ≠ .idle) ∧
    (u.life ≠ .fatal ∧ 1 < u.params.nReq ∧ u.slot 1 = .idle ∧ (∀ r' w, u.slot r' ≠ .presented w) ∧
      ∃ r', r' ≠ 1 ∧ (u.slot r').needsQuiet u.params.width = true) := by
  refine ⟨⟨by decide, by decide, rfl, ?_, by decide, 0, by decide, by decide⟩,
    ⟨by decide, by decide, rfl, ?_, 0, by decide, by decide⟩⟩ <;>
  · intro r' w h
    cases r' with
    | zero => cases h
    | succ r => exact absurd ((slotAt_one _ _ (Nat.succ_ne_zero r)).symm.trans h) (by simp)
theorem witness_UngrayOfGray : 0 < 32 ∧ 0xFFFFFFFF < 2 ^ 32 := by decide
theorem witness_GrayUnitStep : 0 < 32 ∧ 0xFFFFFFFF < 2 ^ 32 := by decide
theorem witness_CaptureOfUnitStep : 0 < 1 ∧ 1 < 2 ^ 1 := by decide
theorem witness_StepKeepsGrayAndChains :
    grayInv settledState ∧ syncInv settledState ∧ ∃ t, step { settledState with script := [.oedge false] } = .next t :=
  ⟨test_sync_settled.1, test_sync_settled.2, _, rfl⟩
theorem witness_SettledRemoteFlags :
    settledState.params.asyncFlags = true ∧ 1 ≤ settledState.params.syncStages ∧ widthInv settledState ∧
    grayInv settledState ∧ syncInv settledState ∧ settledState.life = .ready ∧ settledState.settled = true :=
  ⟨rfl, by decide, by unfold widthInv; decide, test_sync_settled.1, test_sync_settled.2, rfl, by decide⟩
theorem witness_SettledRemoteFlags_oclk :
    let s : State := { settledState with script := [.oedge false] }
    s.params.asyncFlags = true ∧ s.life ≠ .fatal ∧ s.script = .oedge false :: [] ∧
    ({ s with script := [.oedge true] } : State).script = .oedge true :: [] := by decide
theorem witness_OptionChangesNoResult : ∃ t, exec (.get 2) (ask (.get 2) [] holding) = .next t := ⟨_, rfl⟩

end Sys2Proof.Tests
end

section
/-! The build parameters (00_scope.md R9): no ending of an operation, no effect, no edge of the sequencer and so no step
writes them. -/

namespace Sys2Proof.Machine

/-! ### The endings of the operations -/

section
variable (s : State)

@[simp] theorem advanceWc_params (n : Nat) : (s.advanceWc n).params = s.params := rfl

@[simp] theorem advanceRc_params (n : Nat) : (s.advanceRc n).params = s.params := by
  rcases advanceRc_cases s n with ⟨_, e⟩ | ⟨_, e⟩ <;> rw [e, commitCursors_params]

@[simp] theorem resetDone_params (r : Nat) : (resetDone r s).params = s.params := rfl
@[simp] theorem lenDone_params (r : Nat) : (lenDone r s).params = s.params := rfl
@[simp] theorem putRejected_params (r : Nat) : (putRejected r s).params = s.params := rfl
@[simp] theorem putDone_params (r n : Nat) : (putDone r n s).params = s.params := rfl
@[simp] theorem getRejected_params (r req : Nat) : (getRejected r req s).params = s.params := rfl

@[simp] theorem getDone_params (r n : Nat) (out : List Byte) : (getDone r n out s).params = s.params := by
  simp only [getDone, releaseLock_params, answer_params, advanceRc_params]

end

/-! ### Effects and edges -/

theorem ExecResult.params_eq {s t : State} {i : Instr} (h : ExecResult s i t) : t.params = s.params := by
  cases h with
  | waits => rfl
  | answers | fatal => simp
  | inits | releases => simp
  | answersLocked | resets => simp
  | puts | gets => simp

theorem serve_params {s t : State} (h : serve s = .next t) : t.params = s.params := by
  rcases serve_next h with rfl | ⟨_, _, _, hr⟩
  · rfl
  · exact hr.params_eq

theorem SequencerResult.params_eq {inp : PortIn} {g : Nat} {s t : State} (h : SequencerResult inp g s t) :
    t.params = s.params := by
  cases h with
  | idles => rfl
  | resets | lens => simp
  | putBegins | getBegins => simp
  | putTakes | getGives => simp
  | putRejects | putZero | putCompletes => simp
  | getRejects | getZero | getCompletes => simp

/-! ### The step -/

/-- Settles O30: the states with the parameters of the start are closed under every smallest move of a step. -/
theorem parametersNeverChange : Obligations.ParametersNeverChange := by
  intro s t h
  exact step_keeps (P := fun u => u.params = s.params)
    (hserve := fun _ _ hu hv => (serve_params hv).trans hu)
    (hslots := fun _ _ hu => hu)
    (hturn := fun _ _ hu => hu)
    (hscript := fun _ _ hu => hu)
    (hdraws := fun _ _ hu => hu)
    (hseen := fun _ _ hu => hu)
    (hseq := fun _ _ _ _ hu hv => hv.params_eq.trans hu)
    (hgrant := fun g w u hu => (grantEdge_params u g w).trans hu)
    (hreset := fun u hu => (hardwareReset_params u).trans hu)
    (hoclk := fun _ _ _ _ hu _ => hu)
    rfl h

end Sys2Proof.Machine
end

section
/-! Differences of `W` bits (00_scope.md R11), the comparator (10_state.md R31, R32) and the wrap of a cursor (R35). -/

namespace Sys2Proof

/-- A `W`-bit difference is the one number of `W` bits that added to the subtrahend gives the minuend. -/
theorem wsub_eq_of_wadd {w a b d : Nat} (ha : a < 2 ^ w) (hd : d < 2 ^ w) (h : wadd w b d = a) : wsub w a b = d :=
  wadd_right_cancel (wsub_lt w a b) hd ((wadd_wsub ha).trans h.symm)

theorem wsub_self (w a : Nat) : wsub w a a = 0 := by
  have hlt := Nat.mod_lt a (Nat.two_pow_pos w)
  have hdiv := Nat.div_add_mod a (2 ^ w)
  rw [wsub, show a + (2 ^ w - a % 2 ^ w) = 2 ^ w * (a / 2 ^ w + 1) by rw [Nat.mul_add]; omega,
    Nat.mul_mod_right]

namespace Machine

theorem empty_iff (s : State) : s.empty = true ↔ s.wc = s.rc := by simp [State.empty]

theorem full_iff (s : State) : s.full = true ↔ s.occ = s.cap := by simp [State.full]

theorem noSpace_eq_false_iff (s : State) (n : Nat) : s.noSpace n = false ↔ n ≤ s.avail := by simp [State.noSpace]

/-- Settles O41: with cursors and capacity of `W` bits and the occupancy not above the capacity neither subtraction of
R32 borrows, and a capacity that is a power of two is not 0. -/
theorem comparatorRelations : Obligations.ComparatorRelations := by
  intro s hw hc hl
  obtain ⟨hwc, hrc, hcap⟩ := hw
  obtain ⟨hp, _, ho⟩ := hc hl
  have hav : s.avail = s.cap - s.occ := avail_eq hcap ho
  have hempty : s.empty = true ↔ s.occ = 0 := (empty_iff s).trans (occ_eq_zero hwc hrc).symm
  have hpos := (isPow2_lt hp).1
  refine ⟨hempty, full_iff s, ho, hav, ?_, fun n => ?_⟩
  · rw [hempty, full_iff]
    omega
  · rw [noSpace_eq_false_iff, hav]
    omega

/-- Settles O42: the difference of the wrapped cursors is pinned by its sum with `RC`, and the capacity divides
`2^W`. -/
theorem cursorWrapHarmless : Obligations.CursorWrapHarmless := by
  rintro W WC RC cap ⟨k, hk, rfl⟩ hle hcap
  have hp : isPow2 W (2 ^ k) = true := (isPow2_iff W _).2 ⟨k, hk, rfl⟩
  obtain ⟨hpos, hlt⟩ := isPow2_lt hp
  constructor
  · refine wsub_eq_of_wadd (Nat.mod_lt _ (Nat.two_pow_pos W)) (by omega) ?_
    rw [wadd, Nat.mod_add_mod, Nat.add_sub_cancel' hle]
  · intro i
    have hd : 2 ^ k ∣ 2 ^ W := Nat.pow_dvd_pow 2 (Nat.le_of_lt hk)
    rw [wsub_of_le hpos hlt, cellIndex_eq_mod hp, ← Nat.mod_add_mod, Nat.mod_mod_of_dvd _ hd, Nat.mod_add_mod]

end Machine

end Sys2Proof
end

section
/-! The state after reset (10_state.md R40, 45_async_option.md R219). -/

namespace Sys2Proof.Machine

theorem ungray_zero (w : Nat) : ungray w 0 = 0 := by
  induction w with
  | zero => rfl
  | succ w ih =>
    rw [ungray, List.range_succ, List.foldl_append, ← ungray, ih]
    simp

theorem lastStage_replicate_zero (n : Nat) : lastStage (List.replicate n 0) = 0 := by
  cases n with
  | zero => rfl
  | succ n => rw [lastStage, List.replicate_succ', List.getLastD_concat]

@[simp] theorem wcO_atReset (stages w : Nat) : (AsyncRegs.atReset stages).wcO w = 0 := by
  rw [AsyncRegs.wcO, AsyncRegs.atReset, lastStage_replicate_zero, ungray_zero]

@[simp] theorem rcO_atReset (stages w : Nat) : (AsyncRegs.atReset stages).rcO w = 0 := by
  rw [AsyncRegs.rcO, AsyncRegs.atReset, lastStage_replicate_zero, ungray_zero]

/-- A chain of zeros behind a gray register of 0 is as no edge of `oclk` has left it (R219). -/
theorem chainInv_atReset (stages : Nat) : chainInv stages 0 0 0 (List.replicate stages 0) :=
  ⟨List.length_replicate, fun h => absurd h (by omega), fun i h => absurd h (by omega)⟩

/-- The state after reset of a block built with parameters `p`. -/
def resetWith (p : Params) : State := { State.reset with params := p, async := AsyncRegs.atReset p.syncStages }

theorem resetWith_config : resetWith Config.params = State.reset := rfl

theorem slot_resetWith (p : Params) (r : Nat) : (resetWith p).slot r = .idle := slotAt_nil r

theorem inv_resetWith (p : Params) : Inv (resetWith p) where
  storage := ⟨rfl, rfl⟩
  width := ⟨Nat.two_pow_pos _, Nat.two_pow_pos _, Nat.two_pow_pos _⟩
  cursors := fun h => nomatch h
  fatal := ⟨(nomatch ·), (nomatch ·)⟩
  occupied := fun h => nomatch h
  ports := fun r _ => slot_resetWith p r
  lock := ⟨fun _ h => (nomatch h), fun r _ _ h => nomatch (slot_resetWith p r).symm.trans h⟩
  sequencer := fun _ h => nomatch h

theorem gray_zero : gray 0 = 0 := by simp [gray]

theorem grayInv_resetWith (p : Params) : grayInv (resetWith p) := fun _ => ⟨gray_zero.symm, gray_zero.symm⟩

theorem syncInv_resetWith (p : Params) : syncInv (resetWith p) :=
  fun _ => ⟨chainInv_atReset p.syncStages, chainInv_atReset p.syncStages⟩

/-- Settles O32: the fields as `State.reset` lists them; the decoded copies are those of chains of zeros. -/
theorem resetState : Obligations.ResetState :=
  ⟨rfl, rfl, rfl, rfl, rfl, rfl, slot_resetWith Config.params, rfl, rfl, wcO_atReset _ _, rcO_atReset _ _⟩

/-- Settles O33: every invariant for any parameters; those of `State.reset` are one case. -/
theorem resetMeetsInvariant : Obligations.ResetMeetsInvariant := by
  constructor
  · rw [← resetWith_config]
    exact ⟨inv_resetWith _, grayInv_resetWith _, syncInv_resetWith _⟩
  · rintro p s rfl
    exact ⟨inv_resetWith p, grayInv_resetWith p, syncInv_resetWith p, wcO_atReset _ _, rcO_atReset _ _⟩

end Sys2Proof.Machine
end

section
/-! What the commits of RESET, PUT and GET leave of the block, and the canonical form of storage through a step
(10_state.md R26). -/

namespace Sys2Proof.Machine

section
variable (s : State)

@[simp] theorem advanceWc_wc (n : Nat) : (s.advanceWc n).wc = wadd s.params.width s.wc n := rfl
@[simp] theorem advanceWc_rc (n : Nat) : (s.advanceWc n).rc = s.rc := rfl
@[simp] theorem advanceWc_cap (n : Nat) : (s.advanceWc n).cap = s.cap := rfl

/-- GET's commit writes the cursors only, whichever of its two it is (R154, R155). -/
theorem advanceRc_eq_commitCursors (n : Nat) : ∃ w r u, s.advanceRc n = s.commitCursors w r u := by
  rcases advanceRc_cases s n with ⟨_, e⟩ | ⟨_, e⟩ <;> exact ⟨_, _, _, e⟩

@[simp] theorem advanceRc_cap (n : Nat) : (s.advanceRc n).cap = s.cap := by
  obtain ⟨w, r, u, e⟩ := advanceRc_eq_commitCursors s n
  rw [e, commitCursors_cap]

@[simp] theorem advanceRc_storage (n : Nat) : (s.advanceRc n).storage = s.storage := by
  obtain ⟨w, r, u, e⟩ := advanceRc_eq_commitCursors s n
  rw [e, commitCursors_storage]

@[simp] theorem advanceRc_life (n : Nat) : (s.advanceRc n).life = s.life := by
  obtain ⟨w, r, u, e⟩ := advanceRc_eq_commitCursors s n
  rw [e, commitCursors_life]

@[simp] theorem advanceRc_fatal (n : Nat) : (s.advanceRc n).fatal = s.fatal := by
  obtain ⟨w, r, u, e⟩ := advanceRc_eq_commitCursors s n
  rw [e, commitCursors_fatal]

@[simp] theorem advanceRc_slots (n : Nat) : (s.advanceRc n).slots = s.slots := by
  obtain ⟨w, r, u, e⟩ := advanceRc_eq_commitCursors s n
  rw [e, commitCursors_slots]

variable (r n : Nat) (out : List Byte)

@[simp] theorem getDone_cap : (getDone r n out s).cap = s.cap := advanceRc_cap s n
@[simp] theorem getDone_storage : (getDone r n out s).storage = s.storage := advanceRc_storage s n
@[simp] theorem getDone_life : (getDone r n out s).life = s.life := advanceRc_life s n
@[simp] theorem getDone_fatal : (getDone r n out s).fatal = s.fatal := advanceRc_fatal s n

@[simp] theorem getDone_slots :
    (getDone r n out s).slots = setSlot s.slots r (.answered (s.slotWord r) ⟨.ok, n, out⟩) := by
  rw [getDone, releaseLock_slots, answer_slots, advanceRc_slots, State.slotWord, State.slot, advanceRc_slots,
    State.slotWord, State.slot]

end

/-- Storage in its form is kept by whatever keeps the parameters and leaves storage as it was. -/
theorem storageInv_of_eq {s t : State} (hs : storageInv s) (hp : t.params = s.params) (hm : t.storage = s.storage) :
    storageInv t := by
  rw [storageInv, hp, hm]
  exact hs

/-- An empty storage list is in its form. -/
theorem storageInv_of_nil {t : State} (hm : t.storage = []) : storageInv t := by
  rw [storageInv, hm]
  exact ⟨rfl, rfl⟩

theorem storageInv_memWrite {s : State} {mask c i : Nat} {bs : List Byte} {m : Memory} (hs : storageInv s)
    (hm : memWrite s.params.width s.params.maxCapacity mask c i bs s.storage = .ok m) :
    storageInv { s with storage := m } :=
  memWrite_keeps hm hs.1 hs.2

theorem storageInv_storeAt {s : State} {i : Nat} {b : Byte} {m : Memory} (hs : storageInv s)
    (hm : storeAt s.params.maxCapacity i b s.storage = .ok m) : storageInv { s with storage := m } := by
  obtain ⟨hi, rfl⟩ := storeAt_ok hm
  exact ⟨Memory.wf_write hs.1 _ _, Memory.within_write hs.2 hi _⟩

/-- An operation stores only through `memWrite`, or empties the list. -/
theorem ExecResult.storageInv {s t : State} {i : Instr} (h : ExecResult s i t) (hs : storageInv s) :
    storageInv t := by
  cases h with
  | waits => exact hs
  | answers | answersLocked | fatal | resets => exact storageInv_of_eq hs rfl rfl
  | inits | releases => exact storageInv_of_nil rfl
  | puts n m _ _ _ _ hm => exact storageInv_of_eq (storageInv_memWrite hs hm) rfl rfl
  | gets => exact storageInv_of_eq hs (getDone_params ..) (getDone_storage ..)

theorem serve_storageInv {s t : State} (hs : storageInv s) (h : serve s = .next t) : storageInv t := by
  rcases serve_next h with rfl | ⟨_, _, _, hr⟩
  · exact hs
  · exact hr.storageInv hs

/-- The sequencer stores only through `storeAt`, one byte at a beat of a PUT (R189). -/
theorem SequencerResult.storageInv {inp : PortIn} {g : Nat} {s t : State} (h : SequencerResult inp g s t)
    (hs : storageInv s) : storageInv t := by
  cases h with
  | idles => exact hs
  | resets | lens | putRejects | putZero | putBegins | getRejects | getBegins | getGives =>
    exact storageInv_of_eq hs rfl rfl
  | getZero | getCompletes => exact storageInv_of_eq hs (getDone_params ..) (getDone_storage ..)
  | putTakes n b m _ _ _ hm | putCompletes n b m _ _ _ hm =>
    exact storageInv_of_eq (storageInv_storeAt hs hm) rfl rfl

/-- Settles O34: the states whose storage is in its form are closed under every smallest move of a step. -/
theorem stepKeepsStorageForm : Obligations.StepKeepsStorageForm := by
  intro s t hs h
  exact step_keeps (P := storageInv)
    (hserve := fun _ _ => serve_storageInv)
    (hslots := fun _ _ hu => hu)
    (hturn := fun _ _ hu => hu)
    (hscript := fun _ _ hu => hu)
    (hdraws := fun _ _ hu => hu)
    (hseen := fun _ _ hu => hu)
    (hseq := fun _ _ _ _ hu hv => hv.storageInv hu)
    (hgrant := fun _ _ _ hu => storageInv_of_eq hu rfl rfl)
    (hreset := fun _ _ => storageInv_of_nil rfl)
    (hoclk := fun _ _ _ _ hu _ => hu)
    hs h

/-- Settles O13: the events of log 8 leave the storage list empty. -/
theorem storageUnspecified : Obligations.StorageUnspecified := by
  have hread : ∀ {t : State}, t.storage = [] → ∀ a, t.storage.read a = none := fun h a => by rw [h]; rfl
  refine ⟨hread rfl, fun s t c h hs ht => hread ?_, fun s t h hs => hread ?_, fun s t inp h hr => hread ?_⟩
  · cases exec_next h with
    | inits => rfl
    | fatal => exact nomatch ht
    | answers => exact absurd ht hs
    | waits i hl | answersLocked i st v hl => exact absurd hl hs
  · rcases execRelease_cases s with ⟨_, e⟩ | ⟨_, _, e⟩ | ⟨_, _, e⟩ | ⟨hl, _, _⟩
    · exact nomatch e.symm.trans h
    · exact nomatch e.symm.trans h
    · injection e.symm.trans h with h
      rw [← h]
      rfl
    · simp [hs] at hl
  · rcases clkEdge_cases inp s with ⟨_, e⟩ | ⟨h0, _⟩ | ⟨h0, _⟩
    · injection e.symm.trans h with h
      rw [← h]
      rfl
    · exact nomatch hr.symm.trans h0
    · exact nomatch hr.symm.trans h0

end Sys2Proof.Machine
end

section
/-! What the effect of an operation leaves unchanged, and everything one move of an agent can be. -/

namespace Sys2Proof.Machine

/-! ### The effect of an operation -/

/-- The effect of the operation in a slot has taken place: it is answered, or it took the fatal fault (R66, R232). -/
def Slot.ended : Slot → Bool
  | .answered _ _ => true
  | .unanswered => true
  | _ => false

/-- An operation either waits, with nothing changed, or ends its own requester's slot and touches no other. -/
theorem ExecResult.slots_cases {s t : State} {i : Instr} (h : ExecResult s i t) :
    t = s ∨ ∃ x, x.ended = true ∧ t.slots = setSlot s.slots s.turn x := by
  cases h with
  | waits => exact .inl rfl
  | answers | answersLocked | fatal | inits | releases | resets | puts => exact .inr ⟨_, rfl, rfl⟩
  | gets => exact .inr ⟨_, rfl, getDone_slots ..⟩

/-- No other requester's slot changes. -/
theorem ExecResult.sameOtherSlots {s t : State} {i : Instr} (h : ExecResult s i t) : sameOtherSlots s.turn t s := by
  intro r hr
  rcases h.slots_cases with rfl | ⟨x, _, e⟩
  · rfl
  · rw [State.slot, e, slotAt_setSlot_other _ _ hr, State.slot]

/-- After an effect the lock is as it was: an operation that takes it gives it back (R62). -/
theorem ExecResult.lock_eq {s t : State} {i : Instr} (h : ExecResult s i t) : t.lock = s.lock := by
  cases h with
  | waits | answers | fatal | releases => rfl
  | inits c _ hq => exact ((quiescent_iff s _).1 hq).2.symm
  | answersLocked _ _ _ _ hf | resets _ hf | puts _ _ _ hf | gets _ _ _ hf => exact hf.symm

theorem serve_lock {s t : State} (h : serve s = .next t) : t.lock = s.lock := by
  rcases serve_next h with rfl | ⟨_, _, _, hr⟩
  · rfl
  · exact hr.lock_eq

theorem serve_sameOtherSlots {s t : State} (h : serve s = .next t) : sameOtherSlots s.turn t s := by
  rcases serve_next h with rfl | ⟨_, _, _, hr⟩
  · exact fun _ _ => rfl
  · exact hr.sameOtherSlots

/-! ### The immediate commands of an edge -/

theorem acceptImmediates_lock {life : Life} {rs : List Nat} {s t : State}
    (h : acceptImmediates life rs s = .next t) : t.lock = s.lock := by
  refine acceptImmediates_keeps (P := fun u => u.lock = s.lock) (fun r a b _ ha hab => ?_) h rfl
  rcases acceptImmediate_next hab with rfl | ⟨w, _, _, hsv⟩
  · exact ha
  · exact (serve_lock hsv).trans ha

theorem acceptImmediates_params {life : Life} {rs : List Nat} {s t : State}
    (h : acceptImmediates life rs s = .next t) : t.params = s.params := by
  refine acceptImmediates_keeps (P := fun u => u.params = s.params) (fun r a b _ ha hab => ?_) h rfl
  rcases acceptImmediate_next hab with rfl | ⟨w, _, _, hsv⟩
  · exact ha
  · exact (serve_params hsv).trans ha

/-- A presented command that takes the lock goes on waiting while the immediate ones are accepted (R187). -/
theorem acceptImmediates_waiting {life : Life} {rs : List Nat} {s t : State} {g w : Nat}
    (h : acceptImmediates life rs s = .next t) (hg : s.slot g = .presented w)
    (hw : lockTaking s.params.width life w = true) : t.slot g = .presented w := by
  refine (acceptImmediates_keeps (P := fun u => u.params = s.params ∧ u.slot g = .presented w)
    (fun r a b _ ha hab => ?_) h ⟨rfl, hg⟩).2
  obtain ⟨hap, hag⟩ := ha
  rcases acceptImmediate_next hab with rfl | ⟨v, hv, hlt, hsv⟩
  · exact ⟨hap, hag⟩
  · have hne : g ≠ r := by
      rintro rfl
      obtain rfl : w = v := by simpa using hag.symm.trans hv
      rw [hap, hw] at hlt
      cases hlt
    refine ⟨(serve_params hsv).trans hap, ?_⟩
    rw [serve_sameOtherSlots hsv g hne, slot_issuedBy, if_neg hne, hag]

/-! ### One move of one agent -/

/-- Everything a move of an agent can be, when it answers a next state. -/
inductive EventResult (s : State) : Event → State → Prop
  /-- an issue by a requester with nothing in flight (R66) -/
  | issues (r word : Nat) (data : List Byte) (hr : r < s.params.nReq) (hi : s.slot r = .idle) :
      EventResult s (.issue r word data)
        { s with slots := setSlot s.slots r (.issued ⟨wireWord s.params.width word, some data⟩) }
  | effects (r : Nat) {t : State} (h : serve { s with turn := r } = .next t) : EventResult s (.effect r) t
  /-- a result is received (R66) -/
  | receives (r : Nat) (hr : ∃ w rsp, s.slot r = .answered w rsp) :
      EventResult s (.ret r) { s with slots := setSlot s.slots r .idle }
  /-- there is no result yet -/
  | awaits (r : Nat) : EventResult s (.ret r) s
  /-- the hardware reset (R181) -/
  | hardReset (inp : PortIn) (hr : inp.rst = true) : EventResult s (.edge inp) s.hardwareReset.drawn
  /-- a running edge: sampling, the immediate commands, the lock's part (R183 to R191) -/
  | clocks (inp : PortIn) {xs : List Slot} {u v : State}
      (hx : sampleSlots s.params.width s.params.nReq inp.reqs s.slots = some xs)
      (hi : acceptImmediates s.life (List.range s.params.nReq) { s with slots := xs } = .next u)
      (hl : lockEdge inp s u = .next v) :
      EventResult s (.edge inp) { v with turn := s.turn, draws := s.draws + 1 }
  /-- an edge of the second clock (R214) -/
  | oclocks (orst : Bool) (a : AsyncRegs) : EventResult s (.oedge orst) { s with async := a, draws := s.draws + 1 }
  /-- the remote observer reads (R218) -/
  | observes (seen : Option (Bool × Bool)) :
      EventResult s .observe { s with remoteSeen := seen, draws := s.draws + 1 }

theorem issue_next {r word : Nat} {data : List Byte} {s t : State} (h : issue r word data s = .next t) :
    EventResult s (.issue r word data) t := by
  unfold issue at h
  split at h
  · cases h
  next hr =>
  split at h
  · cases h
  next hi =>
  split at h
  · cases h
  · injection h with h
    subst h
    exact .issues r word data (by omega) (by simpa using hi)

theorem receive_next {r : Nat} {s t : State} (h : receive r s = .next t) : EventResult s (.ret r) t := by
  unfold receive at h
  split at h <;> injection h with h <;> subst h
  · next w rsp hr => exact .receives r ⟨w, rsp, hr⟩
  · exact .awaits r

theorem clkEdge_next {inp : PortIn} {s t : State} (h : clkEdge inp s = .next t) : EventResult s (.edge inp) t := by
  rcases clkEdge_cases inp s with ⟨hr, e⟩ | ⟨_, _, e⟩ | ⟨_, _, e⟩ <;> rw [e] at h
  · injection h with h
    subst h
    exact .hardReset inp hr
  · cases h
  · obtain ⟨v, hv, rfl⟩ := endEdge_next h
    obtain ⟨xs, u, hx, _, hi, hl⟩ := runningEdge_next hv
    exact .clocks inp hx hi hl

theorem oclkEdge_next {orst : Bool} {s t : State} (h : oclkEdge orst s = .next t) :
    EventResult s (.oedge orst) t := by
  unfold oclkEdge at h
  split at h
  · injection h with h
    subst h
    exact .oclocks orst _
  · cases h

theorem observe_next {s t : State} (h : observe s = .next t) : EventResult s .observe t := by
  unfold observe at h
  split at h
  · injection h with h
    subst h
    exact .observes _
  · cases h

theorem runEvent_next {e : Event} {s t : State} (h : runEvent e s = .next t) : EventResult s e t := by
  cases e with
  | issue r word data => exact issue_next (unlessFatal_next h).2
  | effect r => exact .effects r h
  | ret r => exact receive_next (unlessFatal_next h).2
  | edge inp => exact clkEdge_next h
  | oedge orst => exact oclkEdge_next (unlessFatal_next h).2
  | observe => exact observe_next (unlessFatal_next h).2

/-- Everything a step can be, when it answers a next state: an effect, or the next move of the script. -/
theorem step_next {s t : State} (h : step s = .next t) :
    serve s = .next t ∨ ∃ e rest, s.script = e :: rest ∧ EventResult { s with script := rest } e t := by
  rcases step_cases s with ⟨_, e⟩ | ⟨e, rest, hs, e'⟩
  · exact .inl (e.symm.trans h)
  · exact .inr ⟨e, rest, hs, runEvent_next (e'.symm.trans h)⟩

end Sys2Proof.Machine
end

section
/-! Lifecycle and capacity through a step (10_state.md R24, R28). The one difficulty is an edge of `clk`, which accepts
several commands: an INIT or a RELEASE needs quiescence, so after it nothing is left to be accepted. -/

namespace Sys2Proof.Machine

/-- Lifecycle and capacity are as before. -/
def sameLifecycle (t s : State) : Prop := t.life = s.life ∧ t.cap = s.cap

/-- The changes of lifecycle and capacity that an operation can make. -/
inductive LifecycleMove (s t : State) : Prop
  /-- INIT succeeds (R101 to R103) -/
  | inits (hl : s.life = .uninit ∨ s.life = .released) (ht : t.life = .ready)
      (hp : isPow2 s.params.width t.cap = true) (hc : t.cap ≤ s.params.maxCapacity)
  /-- RELEASE in READY (R170) -/
  | releases (hl : s.life = .ready) (ht : t.life = .released) (hc : t.cap = s.cap)
  /-- the fatal fault (R232) -/
  | fatal (hl : s.life = .uninit ∨ s.life = .released) (ht : t.life = .fatal) (hc : t.cap = s.cap)

/-- A move is about the lifecycle, the capacity and the parameters of the state it starts from. -/
theorem LifecycleMove.of_same {s u t : State} (h : LifecycleMove u t) (hs : sameLifecycle u s)
    (hp : u.params = s.params) : LifecycleMove s t := by
  obtain ⟨hl, hc⟩ := hs
  cases h with
  | inits hl' ht hp' hc' => exact .inits (hl ▸ hl') ht (hp ▸ hp') (hp ▸ hc')
  | releases hl' ht hc' => exact .releases (hl ▸ hl') ht (hc'.trans hc)
  | fatal hl' ht hc' => exact .fatal (hl ▸ hl') ht (hc'.trans hc)

theorem LifecycleMove.to_same {s u t : State} (h : LifecycleMove s u) (ht : sameLifecycle t u) :
    LifecycleMove s t := by
  obtain ⟨hl, hc⟩ := ht
  cases h with
  | inits hl' hu hp hc' => exact .inits hl' (hl.trans hu) (hc ▸ hp) (hc ▸ hc')
  | releases hl' hu hc' => exact .releases hl' (hl.trans hu) (hc.trans hc')
  | fatal hl' hu hc' => exact .fatal hl' (hl.trans hu) (hc.trans hc')

/-- No requester presents a command. -/
def nonePresented (s : State) : Prop := ∀ r w, s.slot r ≠ .presented w

/-- An effect keeps lifecycle and capacity, or is that of a quiescent block (R67). -/
theorem ExecResult.lifecycle {s t : State} {i : Instr} (h : ExecResult s i t) :
    sameLifecycle t s ∨ (LifecycleMove s t ∧ s.quiescent s.turn = true) := by
  cases h with
  | waits | answers | answersLocked | resets | puts => exact .inl ⟨rfl, rfl⟩
  | gets => exact .inl ⟨getDone_life .., getDone_cap ..⟩
  | fatal c hl hq => exact .inr ⟨.fatal hl rfl rfl, hq⟩
  | inits c hl hq hp hc => exact .inr ⟨.inits hl rfl hp hc, hq⟩
  | releases hl hq => exact .inr ⟨.releases hl rfl rfl, hq⟩

/-- In a quiescent block an operation that ends leaves no command presented: its own slot is answered or given up. -/
theorem ExecResult.nonePresented {s t : State} {i : Instr} {op : Op} (h : ExecResult s i t)
    (ho : s.slot s.turn = .issued op) (hq : s.quiescent s.turn = true) : nonePresented t := by
  intro r w hw
  by_cases hr : r = s.turn
  · subst hr
    rcases h.slots_cases with rfl | ⟨x, hx, e⟩
    · exact nomatch ho.symm.trans hw
    · rw [State.slot, e, slotAt_setSlot_same] at hw
      subst hw
      cases hx
  · have hi := ((quiescent_iff s _).1 hq).1 r hr
    exact nomatch hi.symm.trans ((h.sameOtherSlots r hr).symm.trans hw)

theorem serve_lifecycle {s t : State} (h : serve s = .next t) :
    sameLifecycle t s ∨ (LifecycleMove s t ∧ nonePresented t) := by
  rcases serve_next h with rfl | ⟨op, i, ho, hr⟩
  · exact .inl ⟨rfl, rfl⟩
  · exact hr.lifecycle.imp_right fun ⟨hm, hq⟩ => ⟨hm, hr.nonePresented ho hq⟩

/-- The immediate commands of an edge make at most one move: after it none is left to be accepted. -/
theorem acceptImmediates_lifecycle {life : Life} {rs : List Nat} {s t : State}
    (h : acceptImmediates life rs s = .next t) :
    sameLifecycle t s ∨ (LifecycleMove s t ∧ nonePresented t) := by
  refine (acceptImmediates_keeps (P := fun u => u.params = s.params ∧
    (sameLifecycle u s ∨ (LifecycleMove s u ∧ nonePresented u))) (fun r a b _ ha hab => ?_) h
    ⟨rfl, .inl ⟨rfl, rfl⟩⟩).2
  obtain ⟨hp, ha⟩ := ha
  rcases acceptImmediate_next hab with rfl | ⟨w, hw, _, hsv⟩
  · exact ⟨hp, ha⟩
  refine ⟨(serve_params hsv).trans hp, ?_⟩
  rcases ha with hsame | ⟨_, hnone⟩
  · rcases serve_lifecycle hsv with ⟨hl, hc⟩ | ⟨hm, hn⟩
    · exact .inl ⟨hl.trans hsame.1, hc.trans hsame.2⟩
    · exact .inr ⟨hm.of_same hsame hp, hn⟩
  · exact absurd hw (hnone r w)

theorem SequencerResult.sameLifecycle {inp : PortIn} {g : Nat} {s t : State} (h : SequencerResult inp g s t) :
    sameLifecycle t s := by
  cases h with
  | idles | resets | lens | putRejects | putZero | putBegins | getRejects | getBegins | putTakes | putCompletes |
    getGives => exact ⟨rfl, rfl⟩
  | getZero | getCompletes => exact ⟨getDone_life .., getDone_cap ..⟩

theorem lockEdge_sameLifecycle {inp : PortIn} {before s t : State} (h : lockEdge inp before s = .next t) :
    sameLifecycle t s := by
  rcases lockEdge_next h with ⟨_, _, hr⟩ | ⟨_, _, rfl⟩ | ⟨_, _, _, rfl⟩
  · exact hr.sameLifecycle
  · exact ⟨rfl, rfl⟩
  · exact ⟨rfl, rfl⟩

theorem EventResult.lifecycle {s t : State} {e : Event} (h : EventResult s e t) :
    sameLifecycle t s ∨ LifecycleMove s t ∨
      (t.life = .uninit ∧ t.cap = 0 ∧ ∃ inp, e = .edge inp ∧ inp.rst = true) := by
  cases h with
  | issues | receives | awaits | oclocks | observes => exact .inl ⟨rfl, rfl⟩
  | effects r h =>
    rcases serve_lifecycle h with h | ⟨h, _⟩
    · exact .inl h
    · exact .inr (.inl (h.of_same ⟨rfl, rfl⟩ rfl))
  | hardReset inp hr => exact .inr (.inr ⟨rfl, rfl, inp, rfl, hr⟩)
  | clocks inp hx hi hl =>
    obtain ⟨hlife, hcap⟩ := lockEdge_sameLifecycle hl
    rcases acceptImmediates_lifecycle hi with ⟨h1, h2⟩ | ⟨hm, _⟩
    · exact .inl ⟨hlife.trans h1, hcap.trans h2⟩
    · have hm : LifecycleMove s _ := hm.of_same ⟨rfl, rfl⟩ rfl
      exact .inr (.inl (hm.to_same ⟨hlife, hcap⟩))

/-- What a step can do to lifecycle and capacity: nothing, one move of an operation, or the hardware reset. -/
theorem step_lifecycle {s t : State} (h : step s = .next t) :
    sameLifecycle t s ∨ LifecycleMove s t ∨
      (t.life = .uninit ∧ t.cap = 0 ∧ ∃ inp rest, s.script = .edge inp :: rest ∧ inp.rst = true) := by
  rcases step_next h with h | ⟨e, rest, hs, h⟩
  · exact (serve_lifecycle h).imp_right fun ⟨h, _⟩ => .inl h
  · rcases h.lifecycle with h | h | ⟨h1, h2, inp, rfl, hr⟩
    · exact .inl h
    · exact .inr (.inl (h.of_same ⟨rfl, rfl⟩ rfl))
    · exact .inr (.inr ⟨h1, h2, inp, rest, hs, hr⟩)

/-- Settles O28: the moves of an operation and the hardware reset are the table of R28. -/
theorem lifeTransitions : Obligations.LifeTransitions := by
  intro s t h hne
  rcases step_lifecycle h with ⟨hl, _⟩ | hm | ⟨hl, _, hr⟩
  · exact absurd hl hne
  · cases hm with
    | inits hl ht => exact .inr (.inl ⟨ht, hl⟩)
    | releases hl ht => exact .inr (.inr (.inl ⟨ht, hl⟩))
    | fatal hl ht => exact .inr (.inr (.inr ⟨ht, hl⟩))
  · exact .inl ⟨hl, hr⟩

/-- Settles O29: of the moves only INIT writes the capacity. -/
theorem capacityWrittenByInitOnly : Obligations.CapacityWrittenByInitOnly := by
  intro s t h hne
  rcases step_lifecycle h with ⟨_, hc⟩ | hm | ⟨_, hc, hr⟩
  · exact absurd hc hne
  · cases hm with
    | inits hl ht hp hc => exact .inr ⟨hl, ht, (isPow2_iff _ _).1 hp, hc⟩
    | releases _ _ hc => exact absurd hc hne
    | fatal _ _ hc => exact absurd hc hne
  · exact .inl ⟨hc, hr⟩

end Sys2Proof.Machine
end

section
/-! The buffer's part of the invariant (10_state.md R33, 20_memory.md R60): what it says of storage, cursors and
capacity, and that every commit keeps it. -/

namespace Sys2Proof.Machine

/-- The part of `Inv` that is about storage, cursors and capacity. -/
structure BufferInv (s : State) : Prop where
  storage : storageInv s
  width : widthInv s
  cursors : cursorInv s
  occupied : occupiedInv s

theorem Inv.buffer {s : State} (h : Inv s) : BufferInv s := ⟨h.storage, h.width, h.cursors, h.occupied⟩

/-- The parameters, both cursors, the capacity, storage and the lifecycle are those of `s`. -/
structure sameBuffer (t s : State) : Prop where
  params : t.params = s.params
  wc : t.wc = s.wc
  rc : t.rc = s.rc
  cap : t.cap = s.cap
  storage : t.storage = s.storage
  life : t.life = s.life

/-- What a commit, an answer or the lock writes elsewhere is nothing to the buffer; where the six fields agree by
unfolding alone, `e` need not be given. -/
theorem BufferInv.of_same {s t : State} (h : BufferInv s)
    (e : sameBuffer t s := by exact ⟨rfl, rfl, rfl, rfl, rfl, rfl⟩) : BufferInv t := by
  obtain ⟨hparams, hwc, hrc, hcap, hstorage, hlife⟩ := e
  cases t
  cases hparams
  cases hwc
  cases hrc
  cases hcap
  cases hstorage
  cases hlife
  exact ⟨h.storage, h.width, h.cursors, h.occupied⟩

/-- Outside READY only the form of storage and the widths are claimed. -/
theorem BufferInv.of_not_ready {s : State} (hs : storageInv s) (hw : widthInv s) (hl : s.life ≠ .ready) :
    BufferInv s :=
  ⟨hs, hw, fun h => absurd h hl, fun h => absurd h hl⟩

/-- With no byte occupied a legal capacity is enough. -/
theorem BufferInv.of_drained {s : State} (hs : storageInv s) (hp : isPow2 s.params.width s.cap = true)
    (hc : s.cap ≤ s.params.maxCapacity) (hwc : s.wc = 0) (hrc : s.rc = 0) : BufferInv s := by
  have ho : s.occ = 0 := by rw [State.occ, hwc, hrc, wsub_self]
  have hpos := Nat.two_pow_pos s.params.width
  refine ⟨hs, ⟨by rwa [hwc], by rwa [hrc], (isPow2_lt hp).2⟩, fun _ => ⟨hp, hc, ?_⟩, fun _ j hj => ?_⟩
  · omega
  · omega

/-! ### Occupancy after a commit -/

/-- A commit of `wc` by `n` makes the occupancy larger by `n` (R144). -/
theorem occ_advanceWc {s : State} {n : Nat} (hw : s.wc < 2 ^ s.params.width) (hn : s.occ + n < 2 ^ s.params.width) :
    (s.advanceWc n).occ = s.occ + n := by
  refine wsub_eq_of_wadd (wadd_lt _ _ _) hn ?_
  rw [advanceWc_params, advanceWc_wc, advanceWc_rc, ← wadd_assoc, State.occ, wadd_wsub hw]

/-- A commit of `rc` by `n` of the occupied bytes makes the occupancy smaller by `n` (R154). -/
theorem occ_advanceRc {s : State} {n : Nat} (hw : s.wc < 2 ^ s.params.width) (hn : n ≤ s.occ) (u : Bool) :
    (s.commitCursors s.wc (wadd s.params.width s.rc n) u).occ = s.occ - n := by
  have ho : s.occ < 2 ^ s.params.width := wsub_lt _ _ _
  refine wsub_eq_of_wadd hw (by simp only [commitCursors_params]; omega) ?_
  rw [commitCursors_params, commitCursors_rc, wadd_assoc, Nat.add_sub_cancel' hn, State.occ, wadd_wsub hw]
  rfl

section
variable {s : State} (h : BufferInv s) (hl : s.life = .ready)
include h hl

theorem BufferInv.mask_eq : s.mask = s.cap - 1 := Machine.mask_eq (h.cursors hl).1

/-- The free space, and that it and the occupancy make up the capacity (R126). -/
theorem BufferInv.occ_add_avail : s.occ + s.avail = s.cap := by
  obtain ⟨_, _, hcap⟩ := h.width
  obtain ⟨_, _, ho⟩ := h.cursors hl
  rw [avail_eq hcap ho]
  omega

/-- The place of a byte that still fits is none of the occupied ones (R59). -/
theorem BufferInv.cellIndex_ne_occupied {i j : Nat} (hi : i < s.avail) (hj : j < s.occ) :
    cellIndex s.params.width s.mask s.rc j ≠ cellIndex s.params.width s.mask s.wc i := by
  have := h.occ_add_avail hl
  rw [cellIndex_wc h.width.1, h.mask_eq hl]
  exact cellIndex_ne (h.cursors hl).1 s.rc (by omega) (by omega)

/-- Two bytes that still fit have different places (R59). -/
theorem BufferInv.cellIndex_ne_free {i j : Nat} (hij : i < j) (hj : j < s.avail) :
    cellIndex s.params.width s.mask s.wc i ≠ cellIndex s.params.width s.mask s.wc j := by
  have := h.occ_add_avail hl
  rw [h.mask_eq hl]
  exact cellIndex_ne (h.cursors hl).1 s.wc hij (by omega)

/-! ### The commits -/

/-- RESET, and a GET that takes everything, leave an empty buffer (R106, R155). -/
theorem BufferInv.drained (u : Bool) : BufferInv (s.commitCursors 0 0 u) := by
  obtain ⟨hp, hc, _⟩ := h.cursors hl
  exact .of_drained h.storage hp hc rfl rfl

/-- Storing outside the occupied bytes keeps the buffer. -/
theorem BufferInv.stored {m : Memory} (hs : storageInv { s with storage := m })
    (hm : ∀ j, j < s.occ → m.read (cellIndex s.params.width s.mask s.rc j) =
      s.storage.read (cellIndex s.params.width s.mask s.rc j)) : BufferInv { s with storage := m } :=
  ⟨hs, h.width, h.cursors, fun _ j hj => (congrArg Option.isSome (hm j hj)).trans (h.occupied hl j hj)⟩

/-- PUT's commit, once its bytes have values: they become the last of the occupied ones (R144). -/
theorem BufferInv.advanceWc {n : Nat} (hn : n ≤ s.avail)
    (hb : ∀ i, i < n → (s.storage.read (cellIndex s.params.width s.mask s.wc i)).isSome = true) :
    BufferInv (s.advanceWc n) := by
  obtain ⟨hwc, hrc, hcap⟩ := h.width
  obtain ⟨hp, hc, _⟩ := h.cursors hl
  have hsum := h.occ_add_avail hl
  have ho : (s.advanceWc n).occ = s.occ + n := occ_advanceWc hwc (by omega)
  refine ⟨h.storage, ⟨wadd_lt _ _ _, hrc, hcap⟩, fun _ => ⟨hp, hc, ?_⟩, fun _ j hj => ?_⟩
  · rw [ho, advanceWc_cap]
    omega
  · rw [ho] at hj
    change (s.storage.read (cellIndex s.params.width s.mask s.rc j)).isSome = true
    rcases Nat.lt_or_ge j s.occ with hlt | hge
    · exact h.occupied hl j hlt
    · have := hb (j - s.occ) (by omega)
      rwa [cellIndex_wc hwc, Nat.add_sub_cancel' hge] at this

/-- GET's commit: the occupied bytes from the `n`th on stay, or none is left (R154, R155). -/
theorem BufferInv.advanceRc {n : Nat} (hn : n ≤ s.occ) : BufferInv (s.advanceRc n) := by
  rcases advanceRc_cases s n with ⟨_, e⟩ | ⟨_, e⟩ <;> rw [e]
  · exact h.drained hl false
  obtain ⟨hwc, _, hcap⟩ := h.width
  obtain ⟨hp, hc, hle⟩ := h.cursors hl
  have ho := occ_advanceRc hwc hn (n == 1)
  refine ⟨h.storage, ⟨hwc, wadd_lt _ _ _, hcap⟩, fun _ => ⟨hp, hc, ?_⟩, fun _ j hj => ?_⟩
  · rw [ho, commitCursors_cap]
    omega
  · rw [ho] at hj
    change (s.storage.read (cellIndex s.params.width s.mask (wadd s.params.width s.rc n) j)).isSome = true
    rw [cellIndex, wadd_assoc]
    exact h.occupied hl (n + j) (by omega)

/-- The bytes of a PUT that fits, stored in one piece, and its commit (R143, R144). -/
theorem BufferInv.put {n : Nat} {bs : List Byte} {m : Memory} (hn : n ≤ s.avail) (hlen : bs.length = n)
    (hm : memWrite s.params.width s.params.maxCapacity s.mask s.wc 0 bs s.storage = .ok m) :
    BufferInv ({ s with storage := m }.advanceWc n) := by
  have hstored : BufferInv { s with storage := m } :=
    h.stored hl (storageInv_memWrite h.storage hm) fun j hj => memWrite_frame hm fun i hi => by
      rw [Nat.zero_add]
      exact h.cellIndex_ne_occupied hl (by omega) hj
  refine hstored.advanceWc hl hn fun i hi => ?_
  have hread := memWrite_read hm (fun j k hjk hk => by
    rw [Nat.zero_add, Nat.zero_add]
    exact h.cellIndex_ne_free hl hjk (by omega)) (j := i) (by omega)
  rw [Nat.zero_add] at hread
  change (m.read (cellIndex s.params.width s.mask s.wc i)).isSome = true
  rw [hread, List.getElem?_eq_getElem (by omega)]
  rfl

end

end Sys2Proof.Machine
end

section
/-! The control part of the invariant (10_state.md R29, R30, R38, 44_port_protocol.md R187): how lock, slots and
sequencer go on agreeing when slots are rewritten, when an operation ends and while one holds the lock. -/

namespace Sys2Proof.Machine

/-! ### Reading a slot -/

theorem moved_of_executing {s : State} {g w : Nat} {bs : List Byte} (h : s.slot g = .executing w bs) :
    s.moved g = bs := by
  rw [State.moved, h]

theorem slotWord_of_executing {s : State} {g w : Nat} {bs : List Byte} (h : s.slot g = .executing w bs) :
    s.slotWord g = w := by
  rw [State.slotWord, h]
  rfl

@[simp] theorem moved_beatDone (s : State) (g : Nat) (b : Byte) : (s.beatDone g b).moved g = s.moved g ++ [b] :=
  moved_of_executing (by rw [slot_beatDone, if_pos rfl])

theorem setSlot_setSlot (xs : List Slot) (r : Nat) (x y : Slot) :
    setSlot (setSlot xs r x) r y = setSlot xs r y := by
  induction xs, r, x using setSlot.induct with
  | case1 | case3 => rfl
  | case2 r x ih | case4 z xs r x ih => simp only [setSlot, ih]

/-! ### Small facts about the parts of the invariant -/

/-- The command of requester `g` executes, latched in the sequencer (R187). -/
def latched (s : State) (g : Nat) : Prop :=
  ∃ w, s.slot g = .executing w (s.moved g) ∧ lockTaking s.params.width .ready w = true ∧
    s.curOp = opField s.params.width w ∧ s.curArg = argField s.params.width w

theorem sequencerInv_iff (s : State) :
    sequencerInv s ↔ ∀ g, s.lock = .held g →
      (s.phase = .check → s.beat = 0 ∧ s.moved g = []) ∧ (s.phase = .data → putDataInv s g ∨ getDataInv s g) := by
  unfold sequencerInv
  cases s.phase <;> simp

theorem fatalInv_of_eq {s t : State} (h : fatalInv s) (hl : t.life = s.life) (hf : t.fatal = s.fatal) :
    fatalInv t := by
  rw [fatalInv, hl, hf]
  exact h

/-- Outside FATAL the fatal bit is 0 (R30). -/
theorem fatalInv_of_ne {s : State} (hf : s.fatal = false) (hl : s.life ≠ .fatal) : fatalInv s := by
  simp [fatalInv, hf, hl]

section
variable {s : State} (h : Inv s)
include h

theorem Inv.fatal_eq_false (hl : s.life ≠ .fatal) : s.fatal = false :=
  Bool.eq_false_iff.2 fun hf => hl (h.fatal.1 hf)

/-- Only an existing requester has something in flight (R38). -/
theorem Inv.lt_nReq {r : Nat} (hr : s.slot r ≠ .idle) : r < s.params.nReq := by
  by_contra hge
  exact hr (h.ports r (by omega))

theorem Inv.holder {g : Nat} (hg : s.lock = .held g) : s.life = .ready ∧ latched s g := h.lock.1 g hg

theorem Inv.holder_not_idle {g : Nat} (hg : s.lock = .held g) : s.slot g ≠ .idle := by
  obtain ⟨_, w, hw, _⟩ := h.holder hg
  rw [hw]
  exact Slot.noConfusion

theorem Inv.check {g : Nat} (hg : s.lock = .held g) (hp : s.phase = .check) : s.beat = 0 ∧ s.moved g = [] :=
  ((sequencerInv_iff s).1 h.sequencer g hg).1 hp

theorem Inv.data {g : Nat} (hg : s.lock = .held g) (hp : s.phase = .data) : putDataInv s g ∨ getDataInv s g :=
  ((sequencerInv_iff s).1 h.sequencer g hg).2 hp

/-- Besides the holder of the lock nobody executes. -/
theorem Inv.others_not_executing {g : Nat} (hl : s.lock = .free ∨ s.lock = .held g) {r : Nat} (hr : r ≠ g)
    (w : Nat) (bs : List Byte) : s.slot r ≠ .executing w bs := by
  intro he
  have hheld := h.lock.2 r w bs he
  rcases hl with hf | hg
  · exact nomatch hf.symm.trans hheld
  · injection hg.symm.trans hheld with e
    exact hr e.symm

/-! ### What keeps the invariant -/

/-- Fields the invariant is not about. -/
theorem Inv.outer (a : AsyncRegs) (seen : Option (Bool × Bool)) (script : List Event) (turn draws : Nat) :
    Inv { s with async := a, remoteSeen := seen, script := script, turn := turn, draws := draws } :=
  ⟨h.storage, h.width, h.cursors, h.fatal, h.occupied, h.ports, h.lock, h.sequencer⟩

/-- New slots, of which the same ones execute, and only existing requesters have any. -/
theorem Inv.withSlots {xs : List Slot} (hp : ∀ r, s.params.nReq ≤ r → slotAt xs r = .idle)
    (he : ∀ r w bs, slotAt xs r = .executing w bs ↔ s.slot r = .executing w bs) : Inv { s with slots := xs } := by
  have hmoved : ∀ g, s.lock = .held g → State.moved { s with slots := xs } g = s.moved g := fun g hg => by
    obtain ⟨_, w, hw, _⟩ := h.holder hg
    exact moved_of_executing ((he g w _).2 hw)
  refine ⟨h.storage, h.width, h.cursors, h.fatal, h.occupied, hp, ⟨fun g hg => ?_, fun r w bs hr => ?_⟩,
    (sequencerInv_iff _).2 fun g hg => ?_⟩
  · obtain ⟨hl, w, hw, hlatched⟩ := h.holder hg
    rw [hmoved g hg]
    exact ⟨hl, w, (he g w _).2 hw, hlatched⟩
  · exact h.lock.2 r w bs ((he r w bs).1 hr)
  · rw [putDataInv, getDataInv, hmoved g hg]
    exact ⟨h.check hg, h.data hg⟩

/-- One slot of an existing requester changes, and neither before nor after it executes. -/
theorem Inv.setSlot {r : Nat} {x : Slot} (hr : r < s.params.nReq) (hold : ∀ w bs, s.slot r ≠ .executing w bs)
    (hnew : ∀ w bs, x ≠ .executing w bs) : Inv { s with slots := setSlot s.slots r x } := by
  refine h.withSlots (fun r' hr' => ?_) fun r' w bs => ?_
  · rw [slotAt_setSlot_other _ _ (by omega)]
    exact h.ports r' hr'
  · by_cases e : r' = r
    · subst e
      rw [slotAt_setSlot_same]
      exact iff_of_false (hnew w bs) (hold w bs)
    · rw [slotAt_setSlot_other _ _ e]
      rfl

/-- An operation of requester `g` has ended and nobody holds the lock (R62). -/
theorem Inv.ended {t : State} {g : Nat} {x : Slot} (hl : s.lock = .free ∨ s.lock = .held g) (hg : s.slot g ≠ .idle)
    (hb : BufferInv t) (hf : fatalInv t) (hp : t.params = s.params) (hlock : t.lock = .free)
    (hx : x.ended = true) (hs : t.slots = Machine.setSlot s.slots g x) : Inv t := by
  have hslot : ∀ r, t.slot r = if r = g then x else s.slot r := fun r => by rw [State.slot, hs, slotAt_setSlot]; rfl
  have hlt := h.lt_nReq hg
  refine ⟨hb.storage, hb.width, hb.cursors, hf, hb.occupied, fun r hr => ?_, ⟨fun r hr => ?_, fun r w bs hr => ?_⟩,
    fun r hr => ?_⟩
  · rw [hp] at hr
    rw [hslot, if_neg (by omega)]
    exact h.ports r hr
  · exact nomatch hlock.symm.trans hr
  · rw [hslot] at hr
    split at hr
    · subst hr
      cases hx
    · next hne => exact absurd hr (h.others_not_executing hl hne w bs)
  · exact nomatch hlock.symm.trans hr

/-- Requester `g` holds the lock, its command latched and the sequencer as it says (R187 to R190). -/
theorem Inv.held {t : State} {g : Nat} {x : Slot} (hl : s.lock = .free ∨ s.lock = .held g) (hg : s.slot g ≠ .idle)
    (hb : BufferInv t) (hf : fatalInv t) (hp : t.params = s.params) (hlock : t.lock = .held g) (hlife : t.life = .ready)
    (hs : t.slots = s.slots ∨ t.slots = Machine.setSlot s.slots g x) (hlatched : latched t g)
    (hq : (t.phase = .check → t.beat = 0 ∧ t.moved g = []) ∧ (t.phase = .data → putDataInv t g ∨ getDataInv t g)) :
    Inv t := by
  have hslot : ∀ r, r ≠ g → t.slot r = s.slot r := fun r hr => by
    rcases hs with hs | hs
    · rw [State.slot, hs]
      rfl
    · rw [State.slot, hs, slotAt_setSlot_other _ _ hr]
      rfl
  have hlt := h.lt_nReq hg
  refine ⟨hb.storage, hb.width, hb.cursors, hf, hb.occupied, fun r hr => ?_, ⟨fun r hr => ?_, fun r w bs hr => ?_⟩,
    (sequencerInv_iff t).2 fun r hr => ?_⟩
  · rw [hp] at hr
    rw [hslot r (by omega)]
    exact h.ports r hr
  · injection hlock.symm.trans hr with e
    exact e ▸ ⟨hlife, hlatched⟩
  · by_cases e : r = g
    · rw [hlock, e]
    · exact absurd ((hslot r e).symm.trans hr) (h.others_not_executing hl e w bs)
  · injection hlock.symm.trans hr with e
    exact e ▸ hq

end

end Sys2Proof.Machine
end

section
/-! The effect of an operation keeps the invariant (20_memory.md R62, R66). -/

namespace Sys2Proof.Machine

/-- A GET that delivers `n` of the occupied bytes keeps the buffer, lock and slots aside (R154). -/
theorem BufferInv.getDone {s : State} (h : BufferInv s) (hl : s.life = .ready) (r : Nat) {n : Nat} (hn : n ≤ s.occ)
    (out : List Byte) : BufferInv (getDone r n out s) :=
  (h.advanceRc hl hn).of_same

theorem ExecResult.inv {s t : State} {i : Instr} {op : Op} (hr : ExecResult s i t) (h : Inv s)
    (ho : s.slot s.turn = .issued op) : Inv t := by
  have hb := h.buffer
  have hidle : s.slot s.turn ≠ .idle := by simp [ho]
  cases hr with
  | waits => exact h
  | answers =>
    exact h.setSlot (h.lt_nReq hidle) (fun w bs => by simp [ho]) fun w bs => Slot.noConfusion
  | answersLocked _ _ _ _ hf =>
    exact h.ended (.inl hf) hidle hb.of_same (fatalInv_of_eq h.fatal rfl rfl) rfl rfl rfl rfl
  | fatal c _ hq =>
    exact h.ended (.inl ((quiescent_iff s _).1 hq).2) hidle (.of_not_ready hb.storage hb.width Life.noConfusion)
      ⟨fun _ => rfl, fun _ => rfl⟩ rfl ((quiescent_iff s _).1 hq).2 rfl rfl
  | inits c hl hq hp hc =>
    exact h.ended (.inl ((quiescent_iff s _).1 hq).2) hidle (.of_drained (storageInv_of_nil rfl) hp hc rfl rfl)
      (fatalInv_of_ne (h.fatal_eq_false (by rcases hl with e | e <;> simp [e])) Life.noConfusion) rfl rfl rfl rfl
  | releases hl hq =>
    exact h.ended (.inl ((quiescent_iff s _).1 hq).2) hidle
      (.of_not_ready (storageInv_of_nil rfl) hb.width Life.noConfusion)
      (fatalInv_of_ne (h.fatal_eq_false (by simp [hl])) Life.noConfusion) rfl ((quiescent_iff s _).1 hq).2 rfl rfl
  | resets hl hf =>
    exact h.ended (.inl hf) hidle (hb.drained hl false).of_same
      (fatalInv_of_eq h.fatal rfl rfl) rfl rfl rfl rfl
  | puts n m hl hf hn hd hm =>
    have hput := hb.put hl ((noSpace_eq_false_iff s n).1 hn) (List.length_take_of_le hd) hm
    exact h.ended (.inl hf) hidle hput.of_same (fatalInv_of_eq h.fatal rfl rfl) rfl rfl rfl rfl
  | gets req out hl hf =>
    have hacq : BufferInv (s.acquire s.turn) := hb.of_same
    exact h.ended (.inl hf) hidle (hacq.getDone hl s.turn (Nat.min_le_right req s.occ) out)
      (fatalInv_of_eq h.fatal (getDone_life ..) (getDone_fatal ..)) (getDone_params ..) rfl rfl (getDone_slots ..)

theorem serve_inv {s t : State} (h : Inv s) (he : serve s = .next t) : Inv t := by
  rcases serve_next he with rfl | ⟨op, i, ho, hr⟩
  · exact h
  · exact hr.inv h ho

/-- Accepting the immediate commands of an edge keeps the invariant: each is issued and takes effect (R186). -/
theorem acceptImmediates_inv {life : Life} {rs : List Nat} {s t : State} (h : Inv s)
    (he : acceptImmediates life rs s = .next t) : Inv t := by
  refine acceptImmediates_keeps (P := Inv) (fun r a b _ ha hab => ?_) he h
  rcases acceptImmediate_next hab with rfl | ⟨w, hw, _, hsv⟩
  · exact ha
  · have hidle : a.slot r ≠ .idle := by simp [hw]
    have hset := ha.setSlot (x := .issued ⟨w, none⟩) (ha.lt_nReq hidle)
      (fun w' bs => by simp [hw]) fun w' bs => Slot.noConfusion
    exact serve_inv (hset.outer a.async a.remoteSeen a.script r a.draws) hsv

end Sys2Proof.Machine
end

section
/-! An edge of the sequencer keeps the invariant (44_port_protocol.md R188 to R190). -/

namespace Sys2Proof.Machine

/-! ### The bytes a data phase has moved -/

/-- The places from a cursor on hold these bytes. -/
def bytesAt (w mask cursor : Nat) (m : Memory) (bs : List Byte) : Prop :=
  ∀ i, i < bs.length → m.read (cellIndex w mask cursor i) = bs[i]?

theorem bytesAt_concat {w mask cursor : Nat} {m : Memory} {bs : List Byte} {b : Byte}
    (h : bytesAt w mask cursor m bs) (hb : m.read (cellIndex w mask cursor bs.length) = some b) :
    bytesAt w mask cursor m (bs ++ [b]) := by
  intro i hi
  rw [List.length_append, List.length_singleton] at hi
  rcases Nat.lt_or_ge i bs.length with hlt | hge
  · rw [List.getElem?_append_left hlt]
    exact h i hlt
  · obtain rfl : i = bs.length := by omega
    rw [hb, List.getElem?_concat_length]

theorem bytesAt_write {w mask cursor a : Nat} {m : Memory} {bs : List Byte} {b : Byte}
    (h : bytesAt w mask cursor m bs) (ha : ∀ i, i < bs.length → cellIndex w mask cursor i ≠ a) :
    bytesAt w mask cursor (m.write a b) bs := fun i hi =>
  (Memory.read_write_other m b (ha i hi)).trans (h i hi)

theorem isSome_of_bytesAt {w mask cursor i : Nat} {m : Memory} {bs : List Byte} (h : bytesAt w mask cursor m bs)
    (hi : i < bs.length) : (m.read (cellIndex w mask cursor i)).isSome = true := by
  rw [h i hi, List.getElem?_eq_getElem hi]
  rfl

theorem putDataInv_iff (s : State) (g : Nat) :
    putDataInv s g ↔ s.curCommand = .command (.put s.curN) ∧ s.curN ≤ s.avail ∧ s.beat < s.curN ∧
      (s.moved g).length = s.beat ∧ bytesAt s.params.width s.mask s.wc s.storage (s.moved g) := by
  constructor
  · rintro ⟨n, hc, rfl, hn, hb, hlen, hbytes⟩
    exact ⟨hc, hn, hb, hlen, fun i hi => hbytes i (hlen ▸ hi)⟩
  · rintro ⟨hc, hn, hb, hlen, hbytes⟩
    exact ⟨_, hc, rfl, hn, hb, hlen, fun i hi => hbytes i (hlen.symm ▸ hi)⟩

theorem getDataInv_iff (s : State) (g : Nat) :
    getDataInv s g ↔ (∃ req, s.curCommand = .command (.get req) ∧ s.curN = s.clampGet req) ∧ s.beat < s.curN ∧
      (s.moved g).length = s.beat ∧ bytesAt s.params.width s.mask s.rc s.storage (s.moved g) := by
  constructor
  · rintro ⟨req, hc, hn, hb, hlen, hbytes⟩
    exact ⟨⟨req, hc, hn⟩, hb, hlen, fun i hi => hbytes i (hlen ▸ hi)⟩
  · rintro ⟨⟨req, hc, hn⟩, hb, hlen, hbytes⟩
    exact ⟨req, hc, hn, hb, hlen, fun i hi => hbytes i (hlen.symm ▸ hi)⟩

/-! ### A beat -/

/-- The last beat is that before `cur_n` (R189). -/
theorem lastBeat_eq {s : State} (hb : s.beat < s.curN) (hn : s.curN < 2 ^ s.params.width) :
    s.lastBeat = decide (s.beat + 1 = s.curN) := by
  rw [State.lastBeat, wsub_of_le (by omega) hn, Bool.beq_eq_decide_eq]
  exact decide_eq_decide.2 (by omega)

/-- The beat counter does not wrap inside a data phase. -/
theorem beatDone_beat_eq {s : State} (hb : s.beat < s.curN) (hn : s.curN < 2 ^ s.params.width) (g : Nat) (b : Byte) :
    (s.beatDone g b).beat = s.beat + 1 := by
  rw [beatDone_beat, wadd, Nat.mod_eq_of_lt (by omega)]

/-- A beat leaves the command latched: it only adds a byte to the slot. -/
theorem latched.beatDone {s : State} {g : Nat} (h : latched s g) (b : Byte) : latched (s.beatDone g b) g := by
  obtain ⟨w, hw, hlatched⟩ := h
  refine ⟨w, ?_, hlatched⟩
  rw [slot_beatDone, if_pos rfl, moved_beatDone, slotWord_of_executing hw]

/-- A beat that is not the last keeps the invariant, when the data phase is as it says after it (R189, R190). -/
theorem Inv.beatDone {s : State} {g : Nat} (h : Inv s) (hg : s.lock = .held g) {m : Memory} (b : Byte)
    (hp : s.phase = .data) (hb : BufferInv { s with storage := m })
    (hd : putDataInv (State.beatDone { s with storage := m } g b) g ∨
      getDataInv (State.beatDone { s with storage := m } g b) g) :
    Inv (State.beatDone { s with storage := m } g b) := by
  obtain ⟨hl, hlatched⟩ := h.holder hg
  have hlatched' : latched { s with storage := m } g := hlatched
  exact h.held (.inr hg) (h.holder_not_idle hg) hb.of_same
    (fatalInv_of_eq h.fatal rfl rfl) rfl hg hl (.inr rfl) (hlatched'.beatDone b)
    ⟨fun hc => (nomatch hp.symm.trans hc), fun _ => hd⟩

section
variable {s : State} {g : Nat} (h : Inv s) (hg : s.lock = .held g)
include h hg

theorem Inv.putData {n : Nat} (hp : s.phase = .data) (hc : s.curCommand = .command (.put n)) :
    n = s.curN ∧ s.curN ≤ s.avail ∧ s.beat < s.curN ∧ (s.moved g).length = s.beat ∧
      bytesAt s.params.width s.mask s.wc s.storage (s.moved g) := by
  rcases h.data hg hp with hd | ⟨_, hc', _⟩
  · obtain ⟨hc', hd⟩ := (putDataInv_iff s g).1 hd
    exact ⟨by simpa using hc.symm.trans hc', hd⟩
  · exact nomatch hc.symm.trans hc'

theorem Inv.getData {n : Nat} (hp : s.phase = .data) (hc : s.curCommand = .command (.get n)) :
    s.curN = s.clampGet n ∧ s.beat < s.curN ∧ (s.moved g).length = s.beat ∧
      bytesAt s.params.width s.mask s.rc s.storage (s.moved g) := by
  rcases h.data hg hp with ⟨_, hc', _⟩ | hd
  · exact nomatch hc.symm.trans hc'
  · obtain ⟨⟨req, hc', hn⟩, hd⟩ := (getDataInv_iff s g).1 hd
    obtain rfl : n = req := by simpa using hc.symm.trans hc'
    exact ⟨hn, hd⟩

/-- The byte a PUT's beat takes goes outside the occupied bytes and those taken before it (R189). -/
theorem Inv.putBeat {n : Nat} {b : Byte} {m : Memory} (hp : s.phase = .data)
    (hc : s.curCommand = .command (.put n))
    (hm : storeAt s.params.maxCapacity (cellIndex s.params.width s.mask s.wc s.beat) b s.storage = .ok m) :
    BufferInv { s with storage := m } ∧ bytesAt s.params.width s.mask s.wc m (s.moved g ++ [b]) := by
  obtain ⟨hl, _⟩ := h.holder hg
  obtain ⟨_, hn, hbeat, hlen, hbytes⟩ := h.putData hg hp hc
  have hs := storageInv_storeAt h.storage hm
  obtain ⟨_, rfl⟩ := storeAt_ok hm
  constructor
  · exact h.buffer.stored hl hs fun j hj =>
      Memory.read_write_other _ b (h.buffer.cellIndex_ne_occupied hl (by omega) hj)
  · refine bytesAt_concat (bytesAt_write hbytes fun i hi => ?_) ?_
    · exact h.buffer.cellIndex_ne_free hl (by omega) (by omega)
    · rw [hlen, Memory.read_write_same]

/-- The byte a GET's beat gives is the next from `rc` on (R190). -/
theorem Inv.getBeat {n : Nat} {b : Byte} (hp : s.phase = .data) (hc : s.curCommand = .command (.get n))
    (hm : byteAt s.params.maxCapacity (cellIndex s.params.width s.mask s.rc s.beat) s.storage = .ok b) :
    bytesAt s.params.width s.mask s.rc s.storage (s.moved g ++ [b]) := by
  obtain ⟨_, _, hlen, hbytes⟩ := h.getData hg hp hc
  refine bytesAt_concat hbytes ?_
  rw [hlen]
  exact (byteAt_ok hm).2

theorem Inv.put_curN_lt {n : Nat} (hp : s.phase = .data) (hc : s.curCommand = .command (.put n)) :
    s.curN < 2 ^ s.params.width := by
  obtain ⟨_, hn, _⟩ := h.putData hg hp hc
  exact Nat.lt_of_le_of_lt hn (wsub_lt _ _ _)

theorem Inv.get_curN_le_occ {n : Nat} (hp : s.phase = .data) (hc : s.curCommand = .command (.get n)) :
    s.curN ≤ s.occ := by
  rw [(h.getData hg hp hc).1]
  exact Nat.min_le_right n s.occ

theorem Inv.putTakes {n : Nat} {b : Byte} {m : Memory} (hp : s.phase = .data)
    (hc : s.curCommand = .command (.put n))
    (hm : storeAt s.params.maxCapacity (cellIndex s.params.width s.mask s.wc s.beat) b s.storage = .ok m)
    (hlast : s.lastBeat = false) : Inv (State.beatDone { s with storage := m } g b) := by
  have hlt := h.put_curN_lt hg hp hc
  obtain ⟨rfl, hn, hbeat, hlen, _⟩ := h.putData hg hp hc
  obtain ⟨hbuf, hbytes⟩ := h.putBeat hg hp hc hm
  rw [lastBeat_eq hbeat hlt, decide_eq_false_iff_not] at hlast
  have hbeat' : (State.beatDone { s with storage := m } g b).beat = s.beat + 1 := beatDone_beat_eq hbeat hlt g b
  refine h.beatDone hg b hp hbuf (.inl ((putDataInv_iff _ g).2 ⟨hc, hn, ?_, ?_, ?_⟩))
  · rw [hbeat', beatDone_curN]
    change s.beat + 1 < s.curN
    omega
  · rw [hbeat', moved_beatDone, List.length_append]
    exact congrArg (· + 1) hlen
  · rw [moved_beatDone]
    exact hbytes

/-- The beat of a PUT's last byte, and its commit: all its bytes have values (R189, R144). -/
theorem Inv.putCompletes {n : Nat} {b : Byte} {m : Memory} (hp : s.phase = .data)
    (hc : s.curCommand = .command (.put n))
    (hm : storeAt s.params.maxCapacity (cellIndex s.params.width s.mask s.wc s.beat) b s.storage = .ok m)
    (hlast : s.lastBeat = true) : BufferInv (State.advanceWc { s with storage := m } s.curN) := by
  have hlt := h.put_curN_lt hg hp hc
  obtain ⟨rfl, hn, hbeat, hlen, _⟩ := h.putData hg hp hc
  obtain ⟨hbuf, hbytes⟩ := h.putBeat hg hp hc hm
  rw [lastBeat_eq hbeat hlt, decide_eq_true_iff] at hlast
  refine hbuf.advanceWc (h.holder hg).1 hn fun i hi => isSome_of_bytesAt hbytes ?_
  rw [List.length_append, List.length_singleton, hlen]
  omega

theorem Inv.getGives {n : Nat} {b : Byte} (hp : s.phase = .data) (hc : s.curCommand = .command (.get n))
    (hm : byteAt s.params.maxCapacity (cellIndex s.params.width s.mask s.rc s.beat) s.storage = .ok b)
    (hlast : s.lastBeat = false) : Inv (s.beatDone g b) := by
  obtain ⟨hn, hbeat, hlen, _⟩ := h.getData hg hp hc
  have hlt : s.curN < 2 ^ s.params.width := Nat.lt_of_le_of_lt (h.get_curN_le_occ hg hp hc) (wsub_lt _ _ _)
  rw [lastBeat_eq hbeat hlt, decide_eq_false_iff_not] at hlast
  have hbeat' := beatDone_beat_eq hbeat hlt g b
  refine h.beatDone hg (m := s.storage) b hp h.buffer (.inr ((getDataInv_iff _ g).2 ⟨⟨n, hc, hn⟩, ?_, ?_, ?_⟩))
  · change (s.beatDone g b).beat < s.curN
    omega
  · change ((s.beatDone g b).moved g).length = (s.beatDone g b).beat
    rw [hbeat', moved_beatDone, List.length_append]
    exact congrArg (· + 1) hlen
  · change bytesAt _ _ _ _ ((s.beatDone g b).moved g)
    rw [moved_beatDone]
    exact h.getBeat hg hp hc hm

/-! ### The sequencer's edge -/

/-- The command of the holder ends: the lock is free and its slot answered (R187, R192). -/
theorem Inv.completed {t : State} (hb : BufferInv t) (hlife : t.life = s.life) (hf : t.fatal = s.fatal)
    (hp : t.params = s.params) (hlock : t.lock = .free) {w : Nat} {rsp : Response}
    (hs : t.slots = Machine.setSlot s.slots g (.answered w rsp)) : Inv t :=
  h.ended (.inr hg) (h.holder_not_idle hg) hb (fatalInv_of_eq h.fatal hlife hf) hp hlock rfl hs

/-- The data phase begins, and it is as it says with no byte moved (R188). -/
theorem Inv.begins (n : Nat) (hd : putDataInv (s.latchN n).beginData g ∨ getDataInv (s.latchN n).beginData g) :
    Inv (s.latchN n).beginData := by
  obtain ⟨hl, hlatched⟩ := h.holder hg
  exact h.held (x := .idle) (.inr hg) (h.holder_not_idle hg) h.buffer.of_same
    (fatalInv_of_eq h.fatal rfl rfl) rfl hg hl (.inl rfl) hlatched ⟨fun hc => Phase.noConfusion hc, fun _ => hd⟩

end

theorem SequencerResult.inv {inp : PortIn} {g : Nat} {s t : State} (hr : SequencerResult inp g s t) (h : Inv s)
    (hg : s.lock = .held g) : Inv t := by
  obtain ⟨hl, _⟩ := h.holder hg
  have hb := h.buffer
  cases hr with
  | idles => exact h
  | resets =>
    exact h.completed hg (hb.drained hl false).of_same rfl rfl rfl rfl rfl
  | lens | putRejects | getRejects =>
    exact h.completed hg hb.of_same rfl rfl rfl rfl rfl
  | putZero =>
    have hzero : BufferInv (s.advanceWc 0) := hb.advanceWc hl (Nat.zero_le _) fun i hi => absurd hi (Nat.not_lt_zero i)
    exact h.completed hg hzero.of_same rfl rfl rfl rfl rfl
  | putBegins n hp hc hn h0 =>
    obtain ⟨hbeat, hmoved⟩ := h.check hg hp
    have hfits := (noSpace_eq_false_iff s n).1 hn
    refine h.begins hg n (.inl ⟨n, hc, rfl, hfits, ?_, ?_, fun i hi => ?_⟩)
    · rw [beginData_beat, latchN_beat]
      omega
    · rw [beginData_beat, latchN_beat, hbeat]
      exact congrArg List.length hmoved
    · rw [beginData_beat, latchN_beat] at hi
      omega
  | getZero n =>
    have hlatch : BufferInv (s.latchN (s.clampGet n)) := hb.of_same
    exact h.completed hg (hlatch.getDone hl g (Nat.zero_le _) []) (getDone_life ..) (getDone_fatal ..)
      (getDone_params ..) rfl (getDone_slots ..)
  | getBegins n hp hc he h0 =>
    obtain ⟨hbeat, hmoved⟩ := h.check hg hp
    refine h.begins hg (s.clampGet n) (.inr ⟨n, hc, rfl, ?_, ?_, fun i hi => ?_⟩)
    · rw [beginData_beat, latchN_beat, beginData_curN, latchN_curN]
      omega
    · rw [beginData_beat, latchN_beat, hbeat]
      exact congrArg List.length hmoved
    · rw [beginData_beat, latchN_beat] at hi
      omega
  | putTakes n b m hp hc _ hm hlast => exact h.putTakes hg hp hc hm hlast
  | putCompletes n b m hp hc _ hm hlast =>
    exact h.completed hg (h.putCompletes hg hp hc hm hlast).of_same rfl rfl rfl rfl
      (setSlot_setSlot ..)
  | getGives n b hp hc hm hlast => exact h.getGives hg hp hc hm hlast
  | getCompletes n b hp hc hm hlast =>
    have hbeat : BufferInv (s.beatDone g b) := hb.of_same
    exact h.completed hg (hbeat.getDone hl g (h.get_curN_le_occ hg hp hc) _) (getDone_life ..) (getDone_fatal ..)
      (getDone_params ..) rfl ((getDone_slots ..).trans (setSlot_setSlot ..))

end Sys2Proof.Machine
end

section
/-! An edge of `clk`, and every step, keeps the invariant (44_port_protocol.md R183 to R191). At a grant the command
waits through the immediate ones, so none of them was an INIT or a RELEASE (R67). -/

namespace Sys2Proof.Machine

/-! ### Sampling and the grant -/

/-- Sampling neither starts nor stops the execution of a command (R183, R184). -/
theorem sampleSlot_executing {w : Nat} {q : ReqIn} {x y : Slot} (h : sampleSlot w q x = some y) (w' : Nat)
    (bs : List Byte) : y = .executing w' bs ↔ x = .executing w' bs := by
  cases x with
  | executing v moved =>
    simp only [sampleSlot] at h
    split at h
    · cases h
    · rw [Option.some.inj h]
  | idle | presented v | answered v rsp | issued op | unanswered =>
    simp only [sampleSlot] at h
    split at h <;> cases h <;> simp

/-- A requester that presents a command has it in its slot after sampling (R183). -/
theorem sampleSlot_presents {inp : PortIn} {s : State} {r : Nat} {y : Slot} (hp : presents inp s r = true)
    (h : sampleSlot s.params.width (inp.req r) (s.slot r) = some y) :
    y = .presented (wireWord s.params.width (inp.req r).cmdWord) := by
  simp only [presents, Bool.and_eq_true] at hp
  obtain ⟨hv, hslot⟩ := hp
  cases hx : s.slot r with
  | idle =>
    simp only [hx, sampleSlot, hv, if_true, Option.some.injEq] at h
    exact h.symm
  | presented v =>
    simp only [hx, sampleSlot, hv, Bool.true_and, beq_iff_eq] at h
    split at h
    · next e => rw [e, ← Option.some.inj h]
    · cases h
  | executing | answered | issued | unanswered => simp [hx] at hslot

theorem Inv.sampled {s : State} {qs : List ReqIn} {xs : List Slot} (h : Inv s)
    (hx : sampleSlots s.params.width s.params.nReq qs s.slots = some xs) : Inv { s with slots := xs } := by
  obtain ⟨hlt, hge⟩ := sampleSlots_slotAt hx
  refine h.withSlots hge fun r w bs => ?_
  rcases Nat.lt_or_ge r s.params.nReq with hr | hr
  · exact sampleSlot_executing (hlt r hr) w bs
  · rw [hge r hr, h.ports r hr]

theorem life_of_lockTaking {w word : Nat} {life : Life} (h : lockTaking w life word = true) : life = .ready := by
  simp only [lockTaking, Bool.and_eq_true, decide_eq_true_eq] at h
  exact h.1

theorem lockTaking_wireWord (w : Nat) (life : Life) (word : Nat) :
    lockTaking w life (wireWord w word) = lockTaking w life word := by
  simp only [lockTaking, decode_wireWord]

/-- The grant, to a requester whose lock-taking command is presented while nobody holds the lock (R187). -/
theorem Inv.granted {s : State} {g word v : Nat} (h : Inv s) (hl : s.lock = .free) (hs : s.slot g = .presented v)
    (ht : lockTaking s.params.width s.life word = true) : Inv (grantEdge g word s) := by
  have hlife := life_of_lockTaking ht
  have hslot : (grantEdge g word s).slot g = .executing (wireWord s.params.width word) [] := by
    rw [slot_grantEdge, if_pos rfl]
  have hmoved := moved_of_executing hslot
  obtain ⟨hop, harg⟩ := fields_wireWord s.params.width word
  have hlatched : latched (grantEdge g word s) g := by
    refine ⟨wireWord s.params.width word, hslot.trans (by rw [hmoved]), ?_, hop.symm, harg.symm⟩
    rw [grantEdge_params, lockTaking_wireWord, ← hlife, ht]
  exact h.held (.inl hl) (by simp [hs]) h.buffer.of_same
    (fatalInv_of_eq h.fatal rfl rfl) rfl rfl hlife (.inr rfl) hlatched
    ⟨fun _ => ⟨rfl, hmoved⟩, fun hc => Phase.noConfusion hc⟩

/-! ### An edge and a step -/

/-- The requester that is granted the lock waits through the immediate commands of the edge, with `life` as it was: an
INIT or a RELEASE would have needed quiescence (R67, R187). -/
theorem acceptImmediates_grantee {inp : PortIn} {xs : List Slot} {s u : State} {g : Nat}
    (hx : sampleSlots s.params.width s.params.nReq inp.reqs s.slots = some xs)
    (hi : acceptImmediates s.life (List.range s.params.nReq) { s with slots := xs } = .next u)
    (hg : grantee inp s = some g) :
    u.slot g = .presented (wireWord s.params.width (inp.req g).cmdWord) ∧ u.life = s.life := by
  obtain ⟨_, hlt, hp, ht⟩ := grantee_waiting hg
  have hslot : slotAt xs g = .presented (wireWord s.params.width (inp.req g).cmdWord) :=
    sampleSlot_presents hp ((sampleSlots_slotAt hx).1 g hlt)
  have hu := acceptImmediates_waiting hi hslot ((lockTaking_wireWord ..).trans ht)
  rcases acceptImmediates_lifecycle hi with ⟨hl, _⟩ | ⟨_, hnone⟩
  · exact ⟨hu, hl⟩
  · exact absurd hu (hnone g _)

theorem clocks_inv {inp : PortIn} {xs : List Slot} {s u v : State} (h : Inv s)
    (hx : sampleSlots s.params.width s.params.nReq inp.reqs s.slots = some xs)
    (hi : acceptImmediates s.life (List.range s.params.nReq) { s with slots := xs } = .next u)
    (hl : lockEdge inp s u = .next v) : Inv v := by
  have hu := acceptImmediates_inv (h.sampled hx) hi
  have hlock : u.lock = s.lock := (acceptImmediates_lock hi :)
  rcases lockEdge_next hl with ⟨g, hg, hr⟩ | ⟨_, _, rfl⟩ | ⟨g, hf, hg, rfl⟩
  · exact hr.inv hu (hlock.trans hg)
  · exact hu
  · obtain ⟨hs, hlife⟩ := acceptImmediates_grantee hx hi hg
    have hp : u.params = s.params := (acceptImmediates_params hi :)
    refine hu.granted (hlock.trans hf) hs ?_
    rw [hp, hlife]
    exact (grantee_waiting hg).2.2.2

/-- After the hardware reset the block is as built (R40). -/
theorem inv_hardwareReset (s : State) : Inv s.hardwareReset where
  storage := ⟨rfl, rfl⟩
  width := ⟨Nat.two_pow_pos _, Nat.two_pow_pos _, Nat.two_pow_pos _⟩
  cursors := fun hl => Life.noConfusion hl
  fatal := fatalInv_of_ne rfl Life.noConfusion
  occupied := fun hl => Life.noConfusion hl
  ports := fun r _ => slot_hardwareReset s r
  lock := ⟨fun _ hg => Lock.noConfusion hg, fun r _ _ hr => Slot.noConfusion ((slot_hardwareReset s r).symm.trans hr)⟩
  sequencer := fun _ hg => Lock.noConfusion hg

theorem EventResult.inv {s t : State} {e : Event} (hr : EventResult s e t) (h : Inv s) : Inv t := by
  cases hr with
  | issues r word data hr hi =>
    exact h.setSlot hr (fun w bs => by simp [hi]) fun w bs => Slot.noConfusion
  | effects r he => exact serve_inv (h.outer s.async s.remoteSeen s.script r s.draws) he
  | receives r hr =>
    obtain ⟨w, rsp, hr⟩ := hr
    exact h.setSlot (h.lt_nReq (by simp [hr])) (fun w bs => by simp [hr])
      fun w bs => Slot.noConfusion
  | awaits => exact h
  | hardReset =>
    have hi := inv_hardwareReset s
    exact hi.outer s.hardwareReset.async s.remoteSeen s.script s.turn (s.draws + 1)
  | clocks inp hx hi hl =>
    have hv := clocks_inv h hx hi hl
    exact hv.outer _ _ _ s.turn (s.draws + 1)
  | oclocks orst a => exact h.outer a s.remoteSeen s.script s.turn (s.draws + 1)
  | observes seen => exact h.outer s.async seen s.script s.turn (s.draws + 1)

/-- Settles O35: an effect keeps the invariant, and so does every move of the script. -/
theorem stepKeepsInvariant : Obligations.StepKeepsInvariant := by
  intro s t h hs
  rcases step_next hs with hs | ⟨e, rest, _, hr⟩
  · exact serve_inv h hs
  · exact hr.inv (h.outer s.async s.remoteSeen rest s.turn s.draws)

end Sys2Proof.Machine
end

section
/-! Broken duties of the requesters (70_reset_and_hazards.md R270 H2, H9): what an issue and an edge of `clk` answer to
them. -/

namespace Sys2Proof.Machine

/-! ### An issue -/

theorem unlessFatal_of_ne {s : State} (h : s.life ≠ .fatal) (body : State → Out) : unlessFatal body s = body s :=
  if_neg h

theorem step_cons {s : State} {e : Event} {rest : List Event} (h : s.script = e :: rest) :
    step s = runEvent e { s with script := rest } := by
  rw [step, h]

theorem step_issue {s : State} {r w : Nat} {data : List Byte} {rest : List Event}
    (h : s.script = .issue r w data :: rest) (hl : s.life ≠ .fatal) :
    step s = issue r w data { s with script := rest } :=
  (step_cons h).trans (unlessFatal_of_ne (s := { s with script := rest }) hl _)

/-- A second issue of a requester in flight (R38, U18). -/
theorem issue_in_flight {s : State} {r : Nat} (hr : r < s.params.nReq) (hs : s.slot r ≠ .idle) (w : Nat)
    (data : List Byte) : issue r w data s = .refused .portProtocol := by
  rw [issue, if_neg (Nat.not_le.2 hr), if_pos hs]

/-- An issue against duty H2 (R270). -/
theorem issue_breach {s : State} {r w : Nat} (hr : r < s.params.nReq) (hs : s.slot r = .idle)
    (hb : s.quietBreach r w = true) (data : List Byte) : issue r w data s = .fault .notQuiescent := by
  rw [issue, if_neg (Nat.not_le.2 hr), if_neg (not_not.2 hs), if_pos hb]

/-! ### Sampling at an edge -/

theorem clkEdge_running {inp : PortIn} {s : State} (hr : inp.rst = false) (hl : s.life ≠ .fatal) :
    clkEdge inp s = endEdge s (runningEdge inp s) := by
  rw [clkEdge, hr, if_neg Bool.false_ne_true, unlessFatal_of_ne hl]

/-- Where one requester breaks the command protocol the edge is refused (R184, U18). -/
theorem clkEdge_broken {inp : PortIn} {s : State} {r : Nat} (hr : inp.rst = false) (hl : s.life ≠ .fatal)
    (hlt : r < s.params.nReq) (hs : sampleSlot s.params.width (inp.req r) (s.slot r) = none) :
    clkEdge inp s = .refused .portProtocol := by
  have hnone : sampleSlots s.params.width s.params.nReq inp.reqs s.slots = none := by
    rw [Option.eq_none_iff_forall_ne_some]
    intro xs hx
    have hsome := (sampleSlots_slotAt hx).1 r hlt
    exact nomatch hs.symm.trans hsome
  rw [clkEdge_running hr hl, runningEdge, hnone]
  rfl

/-- Where every requester keeps the command protocol the slots can be sampled (R183). -/
theorem sampleSlots_isSome {w n : Nat} {qs : List ReqIn} {xs : List Slot}
    (h : ∀ r, r < n → (sampleSlot w (qs.getD r ReqIn.rest) (slotAt xs r)).isSome = true) :
    (sampleSlots w n qs xs).isSome = true := by
  induction n generalizing qs xs with
  | zero => rfl
  | succ n ih =>
    have hhead : (sampleSlot w (qs.headD ReqIn.rest) (xs.headD .idle)).isSome = true := by
      have h0 := h 0 (Nat.succ_pos n)
      cases qs <;> cases xs <;> exact h0
    have htail : (sampleSlots w n qs.tail xs.tail).isSome = true := ih fun r hr => by
      have hr' := h (r + 1) (Nat.succ_lt_succ hr)
      cases qs <;> cases xs <;> simpa [slotAt, slotAt_nil] using hr'
    obtain ⟨y, hy⟩ := Option.isSome_iff_exists.1 hhead
    obtain ⟨ys, hys⟩ := Option.isSome_iff_exists.1 htail
    rw [sampleSlots, hy, hys]
    rfl

/-- Where the slots can be sampled, a breach of duty H2 by a requester that begins to present is the fault (R270). -/
theorem clkEdge_breach {inp : PortIn} {s : State} {r : Nat} (hr : inp.rst = false) (hl : s.life ≠ .fatal)
    (hx : (sampleSlots s.params.width s.params.nReq inp.reqs s.slots).isSome = true) (hlt : r < s.params.nReq)
    (hs : s.slot r = .idle) (hv : (inp.req r).cmdValid = true) (hb : s.quietBreach r (inp.req r).cmdWord = true) :
    clkEdge inp s = .fault .notQuiescent := by
  obtain ⟨xs, hx⟩ := Option.isSome_iff_exists.1 hx
  have hbreach : portBreach inp s = true :=
    List.any_eq_true.2 ⟨r, List.mem_range.2 hlt, by rw [hs, hv, hb]; rfl⟩
  rw [clkEdge_running hr hl, runningEdge, hx, hbreach]
  rfl

/-! ### What one slot makes of its pins -/

theorem sampleSlot_busy {w : Nat} {q : ReqIn} {x : Slot} (hv : q.cmdValid = true)
    (hx : (∃ v bs, x = .executing v bs) ∨ ∃ v rsp, x = .answered v rsp) : sampleSlot w q x = none := by
  rcases hx with ⟨v, bs, rfl⟩ | ⟨v, rsp, rfl⟩ <;> simp [sampleSlot, hv]

theorem sampleSlot_withdrawn {w v : Nat} {q : ReqIn} (h : q.cmdValid = false ∨ wireWord w q.cmdWord ≠ v) :
    sampleSlot w q (.presented v) = none := by
  rcases h with h | h <;> simp [sampleSlot, h]

/-- Pins at rest suit every slot but a waiting one. -/
theorem sampleSlot_rest {x : Slot} (w : Nat) (hx : ∀ v, x ≠ .presented v) :
    (sampleSlot w ReqIn.rest x).isSome = true := by
  cases x with
  | presented v => exact absurd rfl (hx v)
  | idle | issued | executing | answered | unanswered => rfl

theorem soloInput_req (g : Nat) (q : ReqIn) (r : Nat) :
    (soloInput g q).req r = if r = g then q else ReqIn.rest := by
  rw [PortIn.req, soloInput, List.getD_eq_getElem?_getD]
  rcases Nat.lt_trichotomy r g with hlt | rfl | hgt
  · rw [List.getElem?_append_left (by simpa using hlt), if_neg (by omega)]
    simp [hlt]
  · rw [if_pos rfl]
    simp
  · rw [if_neg (by omega), List.getElem?_eq_none (by simp; omega)]
    rfl

/-- With one requester alone beginning to present and nobody waiting, the slots can be sampled. -/
theorem sampleSlots_soloInput {s : State} {r word : Nat} (hs : s.slot r = .idle)
    (hnone : nonePresented s) :
    (sampleSlots s.params.width s.params.nReq (soloInput r (presenting word)).reqs s.slots).isSome = true := by
  refine sampleSlots_isSome fun r' _ => ?_
  change (sampleSlot _ ((soloInput r (presenting word)).req r') (s.slot r')).isSome = true
  rw [soloInput_req]
  split
  · next e => rw [e, hs]; rfl
  · exact sampleSlot_rest _ (hnone r')

/-- Settles O54: the issue and the sampling refuse a broken protocol, and `quietBreach` is the breach of duty H2. -/
theorem secondCommandRefused : Obligations.SecondCommandRefused := by
  refine ⟨fun s r w data rest hscript hl hr => ⟨fun hs => ?_, fun hs hb => ?_⟩,
    fun inp s r hrst hl hr => ⟨fun hv hx => ?_, fun w hs hw => ?_⟩, fun s r word hl hr hs hnone hb => ?_⟩
  · rw [step_issue hscript hl]
    exact issue_in_flight (s := { s with script := rest }) hr hs w data
  · rw [step_issue hscript hl]
    exact issue_breach (s := { s with script := rest }) hr hs ((quietBreach_iff s r w).2 hb) data
  · exact clkEdge_broken hrst hl hr (sampleSlot_busy hv hx)
  · refine clkEdge_broken hrst hl hr ?_
    rw [hs]
    exact sampleSlot_withdrawn hw
  · have hreq : (soloInput r (presenting word)).req r = presenting word := by rw [soloInput_req, if_pos rfl]
    refine clkEdge_breach rfl hl (sampleSlots_soloInput hs hnone) hr hs ?_ ?_ <;> rw [hreq]
    · rfl
    · exact (quietBreach_iff s r word).2 hb

end Sys2Proof.Machine
end

section
/-! An operation from its issue to its return (20_memory.md R66): what a step fetches and runs, and what an operation
that may not run yet is answered (R62, R67). -/

namespace Sys2Proof

/-- A table word laid out for a wider block decodes to what the table's width reads from it (R81, R92). -/
theorem decode_tableWord {w nbits n : Nat} {i : Instr} (hw : tableWidth ≤ w)
    (h : decodeTableWord nbits n = some i) : decode w (tableWord w nbits n) = .command i := by
  have harg : argField tableWidth (n % 2 ^ nbits) < 2 ^ w :=
    Nat.lt_of_lt_of_le (Nat.mod_lt _ (Nat.two_pow_pos _)) (Nat.pow_le_pow_right (by decide) hw)
  obtain ⟨hop, harg'⟩ := fields_joinFields (opField tableWidth (n % 2 ^ nbits)) harg
  rw [decode, tableWord, hop, harg', ← decode]
  unfold decodeTableWord at h
  split at h
  · cases hd : decode tableWidth (n % 2 ^ nbits) with
    | command j =>
      rw [hd] at h
      exact congrArg Decoded.command (Option.some.inj h)
    | reserved op =>
      rw [hd] at h
      cases h
  · cases h

namespace Machine

/-! ### The gates -/

theorem whenReady_of_fatal {s : State} (h : s.life = .fatal) (v : Nat) (body : State → Out) :
    whenReady v body s = .fault .fatalState := by
  rw [whenReady, h]

/-- In FATAL no operation runs (R232). -/
theorem exec_of_fatal {s : State} (h : s.life = .fatal) (i : Instr) : exec i s = .fault .fatalState := by
  cases i with
  | init | release | put => exact if_pos h
  | isEmpty | isFull => simp only [exec, execIsEmpty, execIsFull, whenReady_of_fatal h]
  | reset | len | get => simp only [exec, execReset, execLen, execGet, underLock, whenReady_of_fatal h]

/-- Under a held lock an operation that takes it waits (R62). -/
theorem underLock_of_held {s : State} {g : Nat} (hl : s.life = .ready) (hg : s.lock = .held g) (v : Nat)
    (body : State → Out) : underLock v body s = .next s := by
  simp only [underLock, whenReady, hl, hg]

/-- A PUT is short of data when the data it carries has fewer bytes than its length (R146). -/
theorem shortData_iff (s : State) (n : Nat) :
    s.shortData n = true ↔ ∃ w data, s.slot s.turn = .issued ⟨w, some data⟩ ∧ data.length < n := by
  unfold State.shortData State.operandData
  cases hs : s.slot s.turn with
  | issued op =>
    obtain ⟨w, data⟩ := op
    cases data <;> simp
  | idle | presented | executing | answered | unanswered => simp

theorem execPut_of_enough {s : State} {n : Nat} (hl : s.life ≠ .fatal) (hd : s.shortData n = false) :
    execPut n s = underLock 0 (putBody n) s := by
  rw [execPut, unlessFatal_of_ne hl, hd, if_neg Bool.false_ne_true]

/-- Settles O24: the lock gate, which a PUT reaches when it is not short of data. -/
theorem heldLockMakesWait : Obligations.HeldLockMakesWait := by
  intro s g n hl hg
  refine ⟨?_, ?_, ?_, fun hd => ?_⟩
  · rw [exec, execReset, underLock_of_held hl hg]
  · rw [exec, execLen, underLock_of_held hl hg]
  · rw [exec, execGet, underLock_of_held hl hg]
  · have henough : s.shortData n = false := by
      rw [Bool.eq_false_iff, ne_eq, shortData_iff]
      rintro ⟨w, data, hs, hlt⟩
      exact Nat.not_le.2 hlt (hd w data hs)
    rw [exec, execPut_of_enough (by simp [hl]) henough, underLock_of_held hl hg]

/-- Settles O14: what breaks quiescence is what `State.quiescent` denies. -/
theorem quiescenceBreachFaults : Obligations.QuiescenceBreachFaults := by
  intro s c hl hb
  have hq : s.quiescent s.turn = false := by
    rw [Bool.eq_false_iff, ne_eq, quiescent_iff]
    rintro ⟨hidle, hfree⟩
    rcases hb with ⟨r, hr, hs⟩ | hlock
    · exact hs (hidle r hr)
    · exact hlock hfree
  constructor
  · rw [exec, execInit, unlessFatal_of_ne hl, initBody, hq]
    rfl
  · rw [exec, execRelease, unlessFatal_of_ne hl, hq]
    rfl

/-! ### Fetching and running -/

/-- The effect of an issued word that decodes is that of its operation (R66, R89). -/
theorem serve_of_issued {s : State} {op : Op} {i : Instr} (ho : s.slot s.turn = .issued op)
    (hd : decode s.params.width op.word = .command i) : serve s = exec i s := by
  rcases serve_cases s with ⟨hl, e⟩ | ⟨_, hnone, _⟩ | ⟨_, op', j, ho', hd', e⟩ | ⟨_, op', c, ho', hd', _⟩
  · rw [e, exec_of_fatal hl]
  · exact absurd ho (hnone op)
  · obtain rfl : op = op' := by simpa using ho.symm.trans ho'
    obtain rfl : i = j := by simpa using hd.symm.trans hd'
    exact e
  · obtain rfl : op = op' := by simpa using ho.symm.trans ho'
    exact nomatch hd.symm.trans hd'

theorem step_nil {s : State} (h : s.script = []) : step s = serve s := by
  rw [step, h]

/-- Settles O5: both at the end of the script and at an `effect` event a step serves the requester. -/
theorem stepRunsDecodedOperation : Obligations.StepRunsDecodedOperation := by
  intro s r op i hs hd
  refine ⟨fun hscript hturn => ?_, fun rest hscript => ?_⟩
  · subst hturn
    rw [step_nil hscript]
    exact serve_of_issued hs hd
  · rw [step_cons hscript]
    exact serve_of_issued (s := { s with script := rest, turn := r }) hs hd

theorem slot_withFetchWord (s : State) (nbits w : Nat) :
    (s.withFetchWord nbits w).slot 0 = .issued ⟨tableWord s.params.width nbits w, none⟩ :=
  slotAt_setSlot_same ..

/-- Settles O6: the word placed is in requester 0's slot, whose turn it is, at the end of the script. -/
theorem fetchedWordRuns : Obligations.FetchedWordRuns := by
  intro s nbits w i hw hd
  rw [step_nil rfl]
  exact serve_of_issued (s := s.withFetchWord nbits w) (slot_withFetchWord s nbits w) (decode_tableWord hw hd)

/-! ### Issue and return -/

/-- An issue that breaks no duty (R66, R270). -/
theorem issue_of_quiet {s : State} {r w : Nat} (hr : r < s.params.nReq) (hs : s.slot r = .idle)
    (hq : s.quietBreach r w = false) (data : List Byte) :
    issue r w data s =
      .next { s with slots := setSlot s.slots r (.issued ⟨wireWord s.params.width w, some data⟩) } := by
  rw [issue, if_neg (Nat.not_le.2 hr), if_neg (not_not.2 hs), hq, if_neg Bool.false_ne_true]

theorem step_ret {s : State} {r : Nat} {rest : List Event} (h : s.script = .ret r :: rest) (hl : s.life ≠ .fatal) :
    step s = receive r { s with script := rest } :=
  (step_cons h).trans (unlessFatal_of_ne (s := { s with script := rest }) hl _)

theorem receive_of_answered {s : State} {r w : Nat} {rsp : Response} (h : s.slot r = .answered w rsp) :
    receive r s = .next { s with slots := setSlot s.slots r .idle } := by
  rw [receive, h]

/-- Writing requester `r`'s slot is all the other slots notice. -/
theorem sameOtherSlots_of_setSlot {s t : State} {r : Nat} {x : Slot} (h : t.slots = setSlot s.slots r x) :
    sameOtherSlots r t s := fun r' hr' => by
  rw [State.slot, h, slotAt_setSlot_other _ _ hr', State.slot]

theorem slot_of_setSlot {s t : State} {r : Nat} {x : Slot} (h : t.slots = setSlot s.slots r x) : t.slot r = x := by
  rw [State.slot, h, slotAt_setSlot_same]

/-- Settles O7: an issue without a breach of duty H2, and the receipt of a result, each write one slot. -/
theorem issueAndReturn : Obligations.IssueAndReturn := by
  constructor
  · intro s r w data rest hscript hl hr hs hothers hidle
    have hq : s.quietBreach r w = false := by
      rw [Bool.eq_false_iff, ne_eq, quietBreach_iff]
      rintro (⟨r', hr', hn⟩ | ⟨hw, r', hr', hn⟩)
      · exact nomatch (hothers r' hr').symm.trans hn
      · exact hn (hidle hw r' hr')
    exact ⟨_, (step_issue hscript hl).trans (issue_of_quiet (s := { s with script := rest }) hr hs hq data),
      slot_of_setSlot rfl, sameOtherSlots_of_setSlot rfl, ⟨rfl, rfl, rfl, rfl⟩, ⟨rfl, rfl, rfl⟩, rfl,
      ⟨rfl, rfl, rfl, rfl, rfl⟩, rfl, rfl, rfl, rfl, rfl⟩
  · intro s r w rsp rest hscript hl hs
    exact ⟨_, (step_ret hscript hl).trans (receive_of_answered (s := { s with script := rest }) hs),
      slot_of_setSlot rfl, sameOtherSlots_of_setSlot rfl, ⟨rfl, rfl, rfl, rfl⟩, ⟨rfl, rfl, rfl⟩, rfl,
      ⟨rfl, rfl, rfl, rfl, rfl⟩, rfl, rfl, rfl, rfl, rfl⟩

end Machine

end Sys2Proof
end

section
/-! The index of a byte: the two-segment copy (20_memory.md R56), and the places a PUT writes (R59). -/

namespace Sys2Proof.Machine

/-- Settles O43: below the end of the array a byte's index is `idx` plus its number, and from there on the sum has
wrapped once. -/
theorem twoSegmentCopy : Obligations.TwoSegmentCopy := by
  rintro W cap c n i ⟨k, hk, rfl⟩ hn hi
  have hpos := Nat.two_pow_pos k
  have hidx : c % 2 ^ k < 2 ^ k := Nat.mod_lt _ hpos
  simp only [Nat.and_two_pow_sub_one_eq_mod]
  rw [cellIndex_eq_mod ((isPow2_iff W _).2 ⟨k, hk, rfl⟩), ← Nat.mod_add_mod]
  split
  · next hlt => exact Nat.mod_eq_of_lt (by omega)
  · next hge =>
    rw [Nat.mod_eq_sub_mod (by omega), Nat.mod_eq_of_lt (by omega)]
    omega

/-- While READY with a legal capacity and occupancy, storing to the places from `wc` on that still fit leaves the
occupied bytes as they were (R59). -/
theorem read_memWrite_occupied {s : State} {bs : List Byte} {m : Memory} (hw : widthInv s) (hc : cursorInv s)
    (hl : s.life = .ready) (hn : bs.length ≤ s.avail)
    (hm : memWrite s.params.width s.params.maxCapacity s.mask s.wc 0 bs s.storage = .ok m) {j : Nat}
    (hj : j < s.occ) :
    m.read (cellIndex s.params.width s.mask s.rc j) = s.storage.read (cellIndex s.params.width s.mask s.rc j) := by
  obtain ⟨hwc, _, hcap⟩ := hw
  obtain ⟨hp, _, ho⟩ := hc hl
  have hav := avail_eq hcap ho
  refine memWrite_frame hm fun i hi => ?_
  rw [Nat.zero_add, cellIndex_wc hwc, mask_eq hp]
  exact cellIndex_ne hp s.rc (by omega) (by omega)

/-- Settles O40: of what an operation can do only a PUT that fits stores, outside the occupied places. -/
theorem putKeepsOccupiedBytes : Obligations.PutKeepsOccupiedBytes := by
  intro s t n hw hc he hl j hj
  cases exec_next he with
  | waits | answers | answersLocked => rfl
  | puts n m _ _ hn hd hm =>
    refine read_memWrite_occupied hw hc hl ?_ hm hj
    rw [List.length_take_of_le hd]
    exact (noSpace_eq_false_iff s n).1 hn

end Sys2Proof.Machine
end

section
/-! The choice of the arbiter (20_memory.md R68, 44_port_protocol.md R187). -/

namespace Sys2Proof.Machine

/-- Every waiting requester is some choice's (R187). -/
theorem exists_pick_of_mem {rs : List Nat} {r : Nat} (h : r ∈ rs) : ∃ k, pick rs k = some r := by
  obtain ⟨k, hk, hget⟩ := List.getElem_of_mem h
  match rs with
  | [] => cases h
  | [x] => exact ⟨0, by rw [pick, List.mem_singleton.1 h]⟩
  | x :: y :: rest =>
    have hlt : k < rest.length + 2 := hk
    refine ⟨k, ?_⟩
    rw [pick, Nat.mod_eq_of_lt hlt, List.getElem?_eq_getElem hk, hget]

/-- Settles O50: who waits does not depend on the choice. -/
theorem anyWaitingMayBeNext : Obligations.AnyWaitingMayBeNext := by
  intro inp s r hf hr
  obtain ⟨k, hk⟩ := exists_pick_of_mem hr
  refine ⟨k, ?_⟩
  rw [grantee, hf]
  exact hk

end Sys2Proof.Machine
end

section
/-! The queue of bytes (00_scope.md R54, 42_put_get.md R161): where its bytes lie, and what PUT and GET make of it. -/

namespace Sys2Proof.Machine

/-! ### Bytes in consecutive places -/

theorem cellIndex_wadd (w mask c k i : Nat) :
    cellIndex w mask (wadd w c k) i = cellIndex w mask c (k + i) := by
  rw [cellIndex, cellIndex, wadd_assoc]

/-- The bytes of a sequence in two parts lie from the cursor on and from the end of the first part on. -/
theorem bytesAt_append {w mask c : Nat} {m : Memory} {bs cs : List Byte} :
    bytesAt w mask c m (bs ++ cs) ↔ bytesAt w mask c m bs ∧ bytesAt w mask (wadd w c bs.length) m cs := by
  simp only [bytesAt, cellIndex_wadd, List.length_append]
  constructor
  · refine fun h => ⟨fun i hi => ?_, fun i hi => ?_⟩
    · rw [h i (by omega), List.getElem?_append_left hi]
    · rw [h (bs.length + i) (by omega), List.getElem?_append_right (by omega), Nat.add_sub_cancel_left]
  · rintro ⟨hbs, hcs⟩ i hi
    rcases Nat.lt_or_ge i bs.length with hlt | hge
    · rw [hbs i hlt, List.getElem?_append_left hlt]
    · have hat := hcs (i - bs.length) (by omega)
      rwa [Nat.add_sub_cancel' hge, ← List.getElem?_append_right hge] at hat

/-- Inside the array, reading gives exactly the bytes that lie there (R153). -/
theorem memRead_eq_ok_iff {w limit mask c n : Nat} {m : Memory} {bs : List Byte}
    (hlt : ∀ j, cellIndex w mask c j < limit) :
    memRead w limit mask c m 0 n = .ok bs ↔ bs.length = n ∧ bytesAt w mask c m bs := by
  constructor
  · intro h
    obtain ⟨hlen, hread⟩ := memRead_ok h
    refine ⟨hlen, fun i hi => ?_⟩
    rw [← hread i (hlen ▸ hi), Nat.zero_add]
  · rintro ⟨rfl, hbytes⟩
    obtain ⟨out, hout⟩ := memRead_isOk (m := m) (i := 0) (n := bs.length) hlt fun j hj => by
      rw [Nat.zero_add]
      exact isSome_of_bytesAt hbytes hj
    obtain ⟨hlen, hread⟩ := memRead_ok hout
    have he : out = bs := List.ext_getElem (by omega) fun i hi hi' => by
      have h := hread i hi'
      rw [Nat.zero_add, hbytes i hi', List.getElem?_eq_getElem hi', List.getElem?_eq_getElem hi] at h
      exact (Option.some.inj h).symm
    rw [hout, he]

/-! ### The queue of a buffer -/

section
variable {s : State} (h : BufferInv s) (hl : s.life = .ready)
include h hl

/-- Every index lies in the array (R26, R50). -/
theorem BufferInv.cellIndex_lt (c i : Nat) : cellIndex s.params.width s.mask c i < s.params.maxCapacity := by
  obtain ⟨hp, hc, _⟩ := h.cursors hl
  rw [h.mask_eq hl]
  exact Nat.lt_of_lt_of_le (Machine.cellIndex_lt hp c i) hc

/-- The queue is the sequence of as many bytes as are occupied that lies from `rc` on (R54). -/
theorem BufferInv.contents_eq_iff {q : List Byte} :
    contents s = .ok q ↔ q.length = s.occ ∧ bytesAt s.params.width s.mask s.rc s.storage q :=
  memRead_eq_ok_iff (h.cellIndex_lt hl s.rc)

/-- Bytes that fit, stored from `wc` on and committed, are the last of the queue (R143, R144). -/
theorem BufferInv.contents_put {q bs : List Byte} {m : Memory} (hq : contents s = .ok q)
    (hn : bs.length ≤ s.avail)
    (hm : memWrite s.params.width s.params.maxCapacity s.mask s.wc 0 bs s.storage = .ok m) :
    contents (State.advanceWc { s with storage := m } bs.length) = .ok (q ++ bs) := by
  obtain ⟨hlen, hbytes⟩ := (h.contents_eq_iff hl).1 hq
  obtain ⟨hwc, _, hcap⟩ := h.width
  have hsum := h.occ_add_avail hl
  have hlt : s.occ + bs.length < 2 ^ s.params.width := by omega
  have hocc : (State.advanceWc { s with storage := m } bs.length).occ = s.occ + bs.length :=
    occ_advanceWc (s := { s with storage := m }) hwc hlt
  refine ((h.put hl hn rfl hm).contents_eq_iff hl).2 ⟨?_, bytesAt_append.2 ⟨fun i hi => ?_, fun i hi => ?_⟩⟩
  · rw [hocc, List.length_append, hlen]
  · exact (read_memWrite_occupied h.width h.cursors hl hn hm (hlen ▸ hi)).trans (hbytes i hi)
  · have hread := memWrite_read hm (fun j k hjk hk => by
      rw [Nat.zero_add, Nat.zero_add]
      exact h.cellIndex_ne_free hl hjk (by omega)) hi
    rw [Nat.zero_add] at hread
    change m.read (cellIndex s.params.width s.mask (wadd s.params.width s.rc q.length) i) = bs[i]?
    rw [hlen, State.occ, wadd_wsub hwc, hread]

/-- The first `n` bytes of the queue are what is read from `rc` on (R153). -/
theorem BufferInv.memRead_take {q : List Byte} {n : Nat} (hq : contents s = .ok q) (hn : n ≤ s.occ) :
    memRead s.params.width s.params.maxCapacity s.mask s.rc s.storage 0 n = .ok (q.take n) := by
  obtain ⟨hlen, hbytes⟩ := (h.contents_eq_iff hl).1 hq
  rw [← List.take_append_drop n q] at hbytes
  exact (memRead_eq_ok_iff (h.cellIndex_lt hl s.rc)).2
    ⟨List.length_take_of_le (hlen.symm ▸ hn), (bytesAt_append.1 hbytes).1⟩

/-- GET's commit drops the first `n` bytes of the queue, whether it moves `rc` or empties the buffer (R154, R155). -/
theorem BufferInv.contents_advanceRc {q : List Byte} {n : Nat} (hq : contents s = .ok q) (hn : n ≤ s.occ) :
    contents (s.advanceRc n) = .ok (q.drop n) := by
  obtain ⟨hlen, hbytes⟩ := (h.contents_eq_iff hl).1 hq
  obtain ⟨hwc, _, _⟩ := h.width
  refine ((h.advanceRc hl hn).contents_eq_iff ((advanceRc_life s n).trans hl)).2 ?_
  rcases advanceRc_cases s n with ⟨hall, e⟩ | ⟨_, e⟩ <;> rw [e]
  · have hocc : s.occ = n := wsub_eq_of_wadd hwc (Nat.lt_of_le_of_lt hn (wsub_lt _ _ _)) hall
    have hnil : q.drop n = [] := List.drop_eq_nil_of_le (by omega)
    rw [hnil]
    exact ⟨(wsub_self _ 0).symm, fun i hi => absurd hi (Nat.not_lt_zero i)⟩
  · rw [← List.take_append_drop n q, bytesAt_append, List.length_take_of_le (by omega)] at hbytes
    rw [occ_advanceRc hwc hn, List.length_drop, hlen]
    exact ⟨rfl, hbytes.2⟩

/-- A queue that is not empty is what the flag `empty` says (R31). -/
theorem BufferInv.empty_eq_false {q : List Byte} (hq : contents s = .ok q) (hne : q ≠ []) : s.empty = false := by
  obtain ⟨hlen, _⟩ := (h.contents_eq_iff hl).1 hq
  obtain ⟨hwc, hrc, _⟩ := h.width
  rw [Bool.eq_false_iff, ne_eq, empty_iff, ← occ_eq_zero hwc hrc, ← hlen]
  exact fun h0 => hne (List.eq_nil_of_length_eq_zero h0)

end

/-! ### PUT and GET with the lock free -/

theorem underLock_of_free {s : State} (hl : s.life = .ready) (hf : s.lock = .free) (v : Nat) (body : State → Out) :
    underLock v body s = body (s.acquire s.turn) := by
  simp only [underLock, whenReady, hl, hf]

/-- PUT under the lock, when its bytes are there and fit (R143 to R145). -/
theorem putBody_of_fits {s : State} {n : Nat} {data : List Byte} {m : Memory} (hs : s.operandData = some data)
    (hd : n ≤ data.length) (hn : n ≤ s.avail)
    (hm : memWrite s.params.width s.params.maxCapacity s.mask s.wc 0 (data.take n) s.storage = .ok m) :
    putBody n s = .next (putDone s.turn n { s with storage := m }) := by
  have hfits := (noSpace_eq_false_iff s n).2 hn
  rw [putBody, hfits, if_neg Bool.false_ne_true, hs, Option.getD_some, if_neg (Nat.not_lt.2 hd), clampPut_eq hfits,
    hm]

/-- GET under the lock, when there are bytes (R152 to R156). -/
theorem getBody_of_read {s : State} {req : Nat} {out : List Byte} (he : s.empty = false)
    (hm : memRead s.params.width s.params.maxCapacity s.mask s.rc s.storage 0 (s.clampGet req) = .ok out) :
    getBody req s = .next (getDone s.turn (s.clampGet req) out s) := by
  rw [getBody, he, if_neg Bool.false_ne_true, hm]

theorem operandData_of_issued {s : State} {w : Nat} {data : Option (List Byte)}
    (h : s.slot s.turn = .issued ⟨w, data⟩) : s.operandData = data := by
  rw [State.operandData, h]

/-- A PUT with its data issued, in READY with the lock free, when the data suffices and fits (R140). -/
theorem exec_put_of_fits {s : State} {n w : Nat} {data : List Byte} {m : Memory} (hl : s.life = .ready)
    (hf : s.lock = .free) (hs : s.slot s.turn = .issued ⟨w, some data⟩) (hd : n ≤ data.length) (hn : n ≤ s.avail)
    (hm : memWrite s.params.width s.params.maxCapacity s.mask s.wc 0 (data.take n) s.storage = .ok m) :
    exec (.put n) s = .next (putDone s.turn n { s.acquire s.turn with storage := m }) := by
  have hdata := operandData_of_issued hs
  have henough : s.shortData n = false := by
    rw [State.shortData, hdata]
    exact decide_eq_false (Nat.not_lt.2 hd)
  rw [exec, execPut_of_enough (by simp [hl]) henough, underLock_of_free hl hf]
  exact putBody_of_fits (s := s.acquire s.turn) hdata hd hn hm

/-- An operation that ends with one slot written has answered its requester and touched no other slot. -/
theorem answeredWith_of_setSlot {s t : State} {st : Status} {v : Nat} {bs : List Byte}
    (h : t.slots = setSlot s.slots s.turn (.answered (s.slotWord s.turn) ⟨st, v, bs⟩)) : answeredWith t s st v bs :=
  ⟨slot_of_setSlot h, sameOtherSlots_of_setSlot h⟩

/-- Settles O37: the bytes are stored behind the queue, where they overwrite none of it, and committed. -/
theorem putAppends : Obligations.PutAppends := by
  intro s n w data q h hl hf hs hq hn hd
  have hb := h.buffer
  have hav : n ≤ s.avail := by
    rw [avail_eq h.width.2.2 (h.cursors hl).2.2]
    exact hn
  have hlen : (data.take n).length = n := List.length_take_of_le hd
  obtain ⟨m, hm⟩ := memWrite_isOk (data.take n) 0 s.storage (hb.cellIndex_lt hl s.wc)
  have hcontents := hb.contents_put hl hq (by rwa [hlen]) hm
  rw [hlen] at hcontents
  exact ⟨_, exec_put_of_fits hl hf hs hd hav hm, hcontents, answeredWith_of_setSlot rfl⟩

/-- Settles O38: clamped to the occupancy, the request reads the front of the queue, and the commit drops it. -/
theorem getTakesFront : Obligations.GetTakesFront := by
  intro s req q h hl hf hq hne
  have hb : BufferInv (s.acquire s.turn) := h.buffer.of_same
  have hclamp : s.clampGet req ≤ s.occ := Nat.min_le_right req s.occ
  obtain ⟨hlen, _⟩ := (hb.contents_eq_iff hl).1 hq
  have hmin : s.clampGet req = min req q.length := congrArg (min req) hlen.symm
  have hread := hb.memRead_take hl hq hclamp
  have hrest := hb.contents_advanceRc hl hq hclamp
  have hexec : exec (.get req) s =
      .next (getDone s.turn (s.clampGet req) (q.take (s.clampGet req)) (s.acquire s.turn)) := by
    rw [exec, execGet, underLock_of_free hl hf]
    exact getBody_of_read (s := s.acquire s.turn) (hb.empty_eq_false hl hq hne) hread
  have htake : q.take req = q.take (s.clampGet req) := List.take_eq_take_min.trans (by rw [← hmin])
  have hdrop : q.drop req = q.drop (s.clampGet req) := List.drop_eq_drop_min.trans (by rw [← hmin])
  rw [htake, hdrop]
  exact ⟨_, s.clampGet req, hexec, hmin, answeredWith_of_setSlot (getDone_slots ..), hrest⟩

end Sys2Proof.Machine
end

section
/-! No step reads a byte without a value or leaves the array (20_memory.md R59, R60). While READY every index lies in
the array and every occupied byte has a value, and PUT and GET, whole or beat by beat, touch no other place. -/

namespace Sys2Proof.Machine

/-- The answer is none of the two faults about a byte (log 8, log 9). -/
def noByteFault : Out → Prop
  | .fault .unspecifiedByte => False
  | .fault .noSuchByte => False
  | _ => True

theorem noByteFault_iff (o : Out) : noByteFault o ↔ o ≠ .fault .unspecifiedByte ∧ o ≠ .fault .noSuchByte := by
  cases o with
  | next | refused => simp [noByteFault]
  | fault f => cases f <;> simp [noByteFault]

/-! ### The gates -/

theorem noByteFault_unlessFatal {body : State → Out} {s : State} (h : noByteFault (body s)) :
    noByteFault (unlessFatal body s) := by
  rcases unlessFatal_cases body s with ⟨_, e⟩ | ⟨_, e⟩ <;> rw [e]
  · trivial
  · exact h

theorem noByteFault_whenReady {v : Nat} {body : State → Out} {s : State}
    (h : s.life = .ready → noByteFault (body s)) : noByteFault (whenReady v body s) := by
  rcases whenReady_cases v body s with ⟨_, e⟩ | ⟨hl, e⟩ | ⟨_, e⟩ <;> rw [e]
  · trivial
  · exact h hl
  · trivial

theorem noByteFault_underLock {v : Nat} {body : State → Out} {s : State}
    (h : s.life = .ready → noByteFault (body (s.acquire s.turn))) : noByteFault (underLock v body s) := by
  rcases underLock_cases v body s with ⟨_, e⟩ | ⟨hl, _, e⟩ | ⟨_, _, e⟩ | ⟨_, e⟩ <;> rw [e]
  · trivial
  · exact h hl
  · trivial
  · trivial

/-! ### The effect of an operation -/

/-- PUT's indices lie in the array (R59). -/
theorem BufferInv.noByteFault_putBody {s : State} (h : BufferInv s) (hl : s.life = .ready) (n : Nat) :
    noByteFault (putBody n s) := by
  unfold putBody
  split
  · trivial
  split
  · trivial
  obtain ⟨m, hm⟩ := memWrite_isOk ((s.operandData.getD []).take (s.clampPut n)) 0 s.storage
    (h.cellIndex_lt hl s.wc)
  rw [hm]
  trivial

/-- GET's bytes are occupied, for its length is clamped to the occupancy (R60, R152). -/
theorem BufferInv.noByteFault_getBody {s : State} (h : BufferInv s) (hl : s.life = .ready) (req : Nat) :
    noByteFault (getBody req s) := by
  unfold getBody
  split
  · trivial
  have hclamp : s.clampGet req ≤ s.occ := Nat.min_le_right req s.occ
  obtain ⟨out, hout⟩ := memRead_isOk (i := 0) (n := s.clampGet req) (h.cellIndex_lt hl s.rc) fun j hj => by
    rw [Nat.zero_add]
    exact h.occupied hl j (by omega)
  rw [hout]
  trivial

theorem BufferInv.noByteFault_exec {s : State} (h : BufferInv s) (i : Instr) : noByteFault (exec i s) := by
  have hacq : BufferInv (s.acquire s.turn) := h.of_same
  cases i with
  | init c =>
    rcases execInit_cases c s with ⟨_, e⟩ | ⟨_, _, e⟩ | ⟨_, _, e⟩ | ⟨_, _, ⟨_, e⟩ | ⟨_, _, e⟩ | ⟨_, _, e⟩⟩ <;>
      rw [exec, e] <;> trivial
  | release =>
    rcases execRelease_cases s with ⟨_, e⟩ | ⟨_, _, e⟩ | ⟨_, _, e⟩ | ⟨_, _, e⟩ <;> rw [exec, e] <;> trivial
  | isEmpty =>
    rw [exec, execIsEmpty]
    exact noByteFault_whenReady fun _ => trivial
  | isFull =>
    rw [exec, execIsFull]
    exact noByteFault_whenReady fun _ => trivial
  | reset =>
    rw [exec, execReset]
    exact noByteFault_underLock fun _ => trivial
  | len =>
    rw [exec, execLen]
    exact noByteFault_underLock fun _ => trivial
  | put n =>
    rcases execPut_cases n s with ⟨_, e⟩ | ⟨_, _, e⟩ | ⟨_, _, e⟩ <;> rw [exec, e]
    · trivial
    · trivial
    · exact noByteFault_underLock fun hl => hacq.noByteFault_putBody hl n
  | get req => exact noByteFault_underLock fun hl => hacq.noByteFault_getBody hl req

theorem BufferInv.noByteFault_serve {s : State} (h : BufferInv s) : noByteFault (serve s) := by
  rcases serve_cases s with ⟨_, e⟩ | ⟨_, _, e⟩ | ⟨_, _, i, _, _, e⟩ | ⟨_, _, _, _, _, e⟩ <;> rw [e]
  · trivial
  · trivial
  · exact h.noByteFault_exec i
  · trivial

/-! ### An edge of `clk` -/

theorem Inv.noByteFault_acceptImmediate {s : State} (h : Inv s) (life : Life) (r : Nat) :
    noByteFault (acceptImmediate life r s) := by
  unfold acceptImmediate
  split
  · next w _ =>
    split
    · trivial
    · have hb : BufferInv (issuedBy s r w none) := h.buffer.of_same
      exact hb.noByteFault_serve
  · trivial

theorem Inv.acceptImmediate {life : Life} {r : Nat} {s t : State} (h : Inv s)
    (he : acceptImmediate life r s = .next t) : Inv t :=
  acceptImmediates_inv (life := life) (rs := [r]) h (by simp only [acceptImmediates, he])

theorem Inv.noByteFault_acceptImmediates {s : State} (h : Inv s) (life : Life) (rs : List Nat) :
    noByteFault (acceptImmediates life rs s) := by
  induction rs generalizing s with
  | nil => trivial
  | cons r rs ih =>
    have hr := h.noByteFault_acceptImmediate life r
    simp only [acceptImmediates]
    cases he : Machine.acceptImmediate life r s with
    | next s' => exact ih (h.acceptImmediate he)
    | fault f =>
      rw [he] at hr
      exact hr
    | refused f => trivial

/-- The check edge touches no byte (R188). -/
theorem noByteFault_checkEdge (g : Nat) (s : State) : noByteFault (checkEdge g s) := by
  unfold checkEdge
  split
  · trivial
  · trivial
  · split
    · trivial
    · split <;> trivial
  · split
    · trivial
    · split <;> trivial
  · trivial

section
variable {s : State} {g : Nat} (h : Inv s) (hg : s.lock = .held g)
include h hg

theorem Inv.noByteFault_putBeat (b : Byte) : noByteFault (Machine.putBeat g b s) := by
  have hlt := h.buffer.cellIndex_lt (h.holder hg).1 s.wc s.beat
  rw [Machine.putBeat, storeAt, if_pos hlt]
  change noByteFault (if s.lastBeat then _ else _)
  split <;> trivial

/-- The beat of a GET is below its clamped length, so its byte is occupied (R60, R190). -/
theorem Inv.noByteFault_getBeat {n : Nat} (hp : s.phase = .data) (hc : s.curCommand = .command (.get n)) :
    noByteFault (Machine.getBeat g s) := by
  have hl := (h.holder hg).1
  obtain ⟨_, hbeat, _⟩ := h.getData hg hp hc
  have hocc := h.get_curN_le_occ hg hp hc
  obtain ⟨b, hb⟩ := Option.isSome_iff_exists.1 (h.occupied hl s.beat (by omega))
  rw [Machine.getBeat, byteAt_of_read (h.buffer.cellIndex_lt hl s.rc s.beat) hb]
  change noByteFault (if s.lastBeat then _ else _)
  split <;> trivial

theorem Inv.noByteFault_sequencerEdge (inp : PortIn) : noByteFault (sequencerEdge inp g s) := by
  unfold sequencerEdge
  split
  · exact noByteFault_checkEdge g s
  next hp =>
  unfold dataEdge
  split
  · split
    · exact h.noByteFault_putBeat hg _
    · trivial
  · next n hc =>
    split
    · exact h.noByteFault_getBeat hg hp hc
    · trivial
  · trivial

end

theorem Inv.noByteFault_lockEdge {before s : State} (h : Inv s) (hlock : s.lock = before.lock) (inp : PortIn) :
    noByteFault (lockEdge inp before s) := by
  unfold lockEdge
  split
  · next g hg => exact h.noByteFault_sequencerEdge (hlock.trans hg) inp
  · split <;> trivial

theorem Inv.noByteFault_runningEdge {s : State} (h : Inv s) (inp : PortIn) : noByteFault (runningEdge inp s) := by
  unfold runningEdge
  split
  · trivial
  next xs hx =>
  split
  · trivial
  have hxs := h.sampled hx
  have hi := hxs.noByteFault_acceptImmediates s.life (List.range s.params.nReq)
  cases he : acceptImmediates s.life (List.range s.params.nReq) { s with slots := xs } with
  | next u =>
    have hlock : u.lock = s.lock := (acceptImmediates_lock he :)
    exact (acceptImmediates_inv hxs he).noByteFault_lockEdge hlock inp
  | fault f =>
    rw [he] at hi
    exact hi
  | refused f => trivial

theorem noByteFault_endEdge {o : Out} (h : noByteFault o) (before : State) : noByteFault (endEdge before o) := by
  cases o with
  | next | refused => trivial
  | fault f => exact h

theorem Inv.noByteFault_clkEdge {s : State} (h : Inv s) (inp : PortIn) : noByteFault (clkEdge inp s) := by
  rcases clkEdge_cases inp s with ⟨_, e⟩ | ⟨_, _, e⟩ | ⟨_, _, e⟩ <;> rw [e]
  · trivial
  · trivial
  · exact noByteFault_endEdge (h.noByteFault_runningEdge inp) s

/-! ### A step -/

theorem noByteFault_issue (r w : Nat) (data : List Byte) (s : State) : noByteFault (issue r w data s) := by
  unfold issue
  split
  · trivial
  split
  · trivial
  split <;> trivial

theorem Inv.noByteFault_runEvent {s : State} (h : Inv s) (e : Event) : noByteFault (runEvent e s) := by
  cases e with
  | issue r w data => exact noByteFault_unlessFatal (noByteFault_issue r w data s)
  | effect r =>
    have hb : BufferInv { s with turn := r } := h.buffer.of_same
    exact hb.noByteFault_serve
  | ret r => exact noByteFault_unlessFatal (by unfold receive; split <;> trivial)
  | edge inp => exact h.noByteFault_clkEdge inp
  | oedge orst => exact noByteFault_unlessFatal (by unfold oclkEdge; split <;> trivial)
  | observe => exact noByteFault_unlessFatal (by unfold observe; split <;> trivial)

/-- Settles O36: an effect touches only bytes the invariant vouches for, and so does every move of the script. -/
theorem noUnspecifiedByte : Obligations.NoUnspecifiedByte := by
  intro s h
  rw [← noByteFault_iff]
  rcases step_cases s with ⟨_, e⟩ | ⟨e, rest, _, e'⟩
  · rw [e]
    exact h.buffer.noByteFault_serve
  · rw [e']
    exact (h.outer s.async s.remoteSeen rest s.turn s.draws).noByteFault_runEvent e

end Sys2Proof.Machine
end

section
/-! Command words and response words (30_encoding.md): the fields of a word, the decoder against the encoder (R81 to
R83, R89, R92), the response word (R86, R87), and the answer to a reserved `op` (R85, R237). -/

namespace Sys2Proof

/-! ### Fields -/

/-- The fields of a number put together again are what the wires carry of it (R81, R182). -/
theorem joinFields_fields (w word : Nat) : joinFields w (opField w word) (argField w word) = wireWord w word := by
  rw [joinFields, opField, argField, wireWord, BitVec.toNat_ofNat, Nat.pow_add, Nat.mod_mul, Nat.mul_comm,
    Nat.add_comm]

theorem wireWord_of_lt {w word : Nat} (h : word < 2 ^ (w + 4)) : wireWord w word = word := Nat.mod_eq_of_lt h

theorem wireWord_lt (w word : Nat) : wireWord w word < 2 ^ (w + 4) := Nat.mod_lt _ (Nat.two_pow_pos _)

theorem argField_lt (w word : Nat) : argField w word < 2 ^ w := Nat.mod_lt _ (Nat.two_pow_pos w)

/-! ### The decoder -/

/-- Whether the command word carries an operand: INIT, PUT and GET (R83). -/
def Instr.hasOperand : Instr → Bool
  | .init _ | .put _ | .get _ => true
  | .reset | .isEmpty | .isFull | .len | .release => false

theorem Instr.hasOperand_iff (i : Instr) :
    i.hasOperand = true ↔ (∃ c, i = .init c) ∨ (∃ n, i = .put n) ∨ (∃ n, i = .get n) := by
  cases i <;> simp [Instr.hasOperand]

theorem Instr.opcode_range (i : Instr) : 1 ≤ i.opcode.toNat ∧ i.opcode.toNat ≤ 8 := by
  cases i <;> simp [Instr.opcode]

theorem decodeFields_opcode_arg (i : Instr) : decodeFields i.opcode i.arg = .command i := by
  cases i <;> rfl

/-- What two fields decode to: the operation with this `op`, which takes `arg` if it has an operand, or reserved (R82,
R83, R85, R89). -/
theorem decodeFields_cases (op : BitVec 4) (arg : Nat) :
    (∃ i, decodeFields op arg = .command i ∧ op = i.opcode ∧ i.arg = if i.hasOperand then arg else 0) ∨
    (decodeFields op arg = .reserved op ∧ (op.toNat = 0 ∨ 9 ≤ op.toNat)) := by
  unfold decodeFields
  split
  case h_9 =>
    refine .inr ⟨rfl, ?_⟩
    simp only [imp_false] at *
    omega
  all_goals next hop => exact .inl ⟨_, rfl, BitVec.eq_of_toNat_eq hop, rfl⟩

/-- The reserved values of `op` are 0 and 9 to 15 (R85). -/
theorem decode_eq_reserved_iff (w word : Nat) :
    decode w word = .reserved (opField w word) ↔ (opField w word).toNat = 0 ∨ 9 ≤ (opField w word).toNat := by
  rcases decodeFields_cases (opField w word) (argField w word) with ⟨i, hd, hop, _⟩ | ⟨hd, hr⟩
  · have := i.opcode_range
    rw [decode, hd, hop]
    exact iff_of_false nofun (by omega)
  · exact iff_of_true hd hr

/-- A word that decodes to an operation holds its opcode, and its operand if it has one (R82, R83). -/
theorem decode_eq_command {w word : Nat} {i : Instr} (h : decode w word = .command i) :
    opField w word = i.opcode ∧ i.arg = if i.hasOperand then argField w word else 0 := by
  rcases decodeFields_cases (opField w word) (argField w word) with ⟨j, hd, hop, harg⟩ | ⟨hd, _⟩
  · obtain rfl : j = i := Decoded.command.inj (hd.symm.trans h)
    exact ⟨hop, harg⟩
  · exact nomatch hd.symm.trans h

theorem wellFormed_of_decode {w word : Nat} {i : Instr} (h : decode w word = .command i) : i.WellFormed w := by
  obtain ⟨_, harg⟩ := decode_eq_command h
  rw [Instr.WellFormed, harg]
  split
  · exact argField_lt w word
  · exact Nat.two_pow_pos w

/-- Where the operand is in the word, encoding inverts decoding (R92). -/
theorem encode_of_decode {w word : Nat} {i : Instr} (h : decode w word = .command i) (hi : i.hasOperand = true) :
    encode w i = wireWord w word := by
  obtain ⟨hop, harg⟩ := decode_eq_command h
  rw [encode, harg, if_pos hi, ← hop, joinFields_fields]

theorem encode_lt {w : Nat} {i : Instr} (h : i.WellFormed w) : encode w i < 2 ^ (w + 4) :=
  wireWord_encode h ▸ wireWord_lt w (encode w i)

/-- Decoding inverts encoding (R92). -/
theorem decode_encode {w : Nat} {i : Instr} (h : i.WellFormed w) : decode w (encode w i) = .command i := by
  obtain ⟨hop, harg⟩ := fields_joinFields i.opcode h
  rw [decode, encode, hop, harg, decodeFields_opcode_arg]

/-- Settles O1: the two fields of the encoded word are opcode and operand. -/
theorem decodeOfEncode : Obligations.DecodeOfEncode :=
  fun _ _ h => ⟨encode_lt h, decode_encode h⟩

/-- Settles O2: the decoder's two outcomes, each read off the fields of the word. -/
theorem decodeIsTotal : Obligations.DecodeIsTotal := by
  intro W w hw
  refine ⟨fun i hd => ⟨wellFormed_of_decode hd, (decode_eq_command hd).1, fun hi => ?_⟩,
    decode_eq_reserved_iff W w, ?_⟩
  · rw [encode_of_decode hd (i.hasOperand_iff.2 hi), wireWord_of_lt hw]
  · rcases decodeFields_cases (opField W w) (argField W w) with ⟨i, hd, _⟩ | ⟨hd, _⟩
    · exact .inl ⟨i, hd⟩
    · exact .inr hd

/-- Settles O3: the words are those the encoder gives for the operations. -/
theorem exampleWordsDecode : Obligations.ExampleWordsDecode :=
  ⟨decode_encode (w := 32) (i := .init 16) (by decide), decode_encode (w := 32) (i := .reset) (by decide),
    decode_encode (w := 32) (i := .isEmpty) (by decide), decode_encode (w := 32) (i := .isFull) (by decide),
    decode_encode (w := 32) (i := .len) (by decide), decode_encode (w := 32) (i := .put 9) (by decide),
    decode_encode (w := 32) (i := .get 16) (by decide), decode_encode (w := 32) (i := .release) (by decide)⟩

namespace Machine

/-! ### The response word -/

theorem Response.word_div {w : Nat} {rsp : Response} (h : rsp.val < 2 ^ w) :
    rsp.word w / 2 ^ w = rsp.status.code.toNat := by
  rw [Response.word, Nat.add_comm, Nat.add_mul_div_right _ _ (Nat.two_pow_pos w), Nat.div_eq_of_lt h, Nat.zero_add]

theorem Response.word_mod {w : Nat} {rsp : Response} (h : rsp.val < 2 ^ w) : rsp.word w % 2 ^ w = rsp.val := by
  rw [Response.word, Nat.mul_add_mod', Nat.mod_eq_of_lt h]

theorem Response.word_lt {w : Nat} {rsp : Response} (h : rsp.val < 2 ^ w) : rsp.word w < 2 ^ (w + 3) := by
  have hcode : rsp.word w / 2 ^ w < 2 ^ 3 := word_div h ▸ rsp.status.code.isLt
  rw [Nat.add_comm, Nat.pow_add]
  exact (Nat.div_lt_iff_lt_mul (Nat.two_pow_pos w)).1 hcode

/-- Settles O4: the quotient by `2^W` is the status code, the remainder is the value. -/
theorem responseWordLayout : Obligations.ResponseWordLayout := by
  intro W st v bs hv
  refine ⟨(Response.word_div (rsp := ⟨st, v, bs⟩) hv).trans ?_, Response.word_mod (rsp := ⟨st, v, bs⟩) hv,
    Response.word_lt (rsp := ⟨st, v, bs⟩) hv⟩
  cases st <;> rfl

/-! ### A reserved `op` -/

/-- The effect of an issued word with a reserved `op` (R85, R237). -/
theorem serve_of_reserved {s : State} {op : Op} {c : BitVec 4} (hl : s.life ≠ .fatal)
    (ho : s.slot s.turn = .issued op) (hd : decode s.params.width op.word = .reserved c) :
    serve s = .next (s.answer s.turn .illegalOp 0 []) := by
  rcases serve_cases s with ⟨hfatal, _⟩ | ⟨_, hnone, _⟩ | ⟨_, op', i, ho', hd', _⟩ | ⟨_, _, _, _, _, e⟩
  · exact absurd hfatal hl
  · exact absurd ho (hnone op)
  · obtain rfl : op = op' := by simpa using ho.symm.trans ho'
    exact nomatch hd.symm.trans hd'
  · exact e

/-- An answer without bytes writes the requester's slot and nothing else (R239). -/
theorem onlyAnswered_answer (s : State) (st : Status) (v : Nat) :
    onlyAnswered (s.answer s.turn st v []) s st v :=
  ⟨answeredWith_of_setSlot rfl, ⟨rfl, rfl, rfl, rfl⟩, ⟨rfl, rfl, rfl⟩, fun _ => rfl, ⟨rfl, rfl, rfl, rfl, rfl⟩,
    rfl, rfl, rfl, rfl, rfl⟩

/-- Settles O26: the word decodes to reserved, and its effect is the answer alone. -/
theorem reservedOpAnswered : Obligations.ReservedOpAnswered := by
  intro s op hl hscript ho hr
  have hd := (decode_eq_reserved_iff s.params.width op.word).2 hr
  exact ⟨_, (step_nil hscript).trans (serve_of_reserved hl ho hd), onlyAnswered_answer s .illegalOp 0⟩

end Machine

end Sys2Proof
end

section
/-! INIT and RESET (40_init_reset.md), and every operation but INIT outside READY (R107, R125, R148, R159, R173,
R236). -/

namespace Sys2Proof.Machine

/-! ### Outside READY -/

theorem life_ne_fatal_of_outside {s : State} (hl : s.life = .uninit ∨ s.life = .released) : s.life ≠ .fatal := by
  rcases hl with h | h <;> simp [h]

theorem life_ne_ready_of_outside {s : State} (hl : s.life = .uninit ∨ s.life = .released) : s.life ≠ .ready := by
  rcases hl with h | h <;> simp [h]

/-- Outside READY the lifecycle gate answers BAD_STATE (R236, R242). -/
theorem whenReady_of_outside {s : State} (hl : s.life = .uninit ∨ s.life = .released) (v : Nat)
    (body : State → Out) : whenReady v body s = .next (s.answer s.turn .badState v []) := by
  rcases hl with h | h <;> simp only [whenReady, h]

/-- The lifecycle check comes before the lock (R62, R242). -/
theorem underLock_of_outside {s : State} (hl : s.life = .uninit ∨ s.life = .released) (v : Nat)
    (body : State → Out) : underLock v body s = .next (s.answer s.turn .badState v []) :=
  whenReady_of_outside hl v _

/-- With nobody else in flight and the lock free RELEASE goes on to the lifecycle check (R67, R171). -/
theorem execRelease_of_quiescent {s : State} (hl : s.life ≠ .fatal) (hidle : ∀ r, r ≠ s.turn → s.slot r = .idle)
    (hf : s.lock = .free) :
    execRelease s = whenReady 0 (fun s => .next (s.releaseCommit.answer s.turn .ok 0 [])) s := by
  have hq := (quiescent_iff s s.turn).2 ⟨hidle, hf⟩
  rw [execRelease, unlessFatal_of_ne hl, hq]
  rfl

theorem shortData_eq_false {s : State} {n : Nat}
    (h : ∀ w data, s.slot s.turn = .issued ⟨w, some data⟩ → n ≤ data.length) : s.shortData n = false := by
  rw [Bool.eq_false_iff, ne_eq, shortData_iff]
  rintro ⟨w, data, hs, hlt⟩
  exact Nat.not_le.2 hlt (h w data hs)

/-- Settles O23: every operation but INIT reaches the lifecycle gate, directly or through the lock gate, and the gate's
answer is all that changes. -/
theorem outsideReadyBadState : Obligations.OutsideReadyBadState := by
  intro s i hl hinit hrelease hput
  refine ⟨_, ?_, onlyAnswered_answer s .badState _⟩
  cases i with
  | init c => exact absurd rfl (hinit c)
  | isEmpty => rw [exec, execIsEmpty, whenReady_of_outside hl]
  | isFull => rw [exec, execIsFull, whenReady_of_outside hl]
  | reset => rw [exec, execReset, underLock_of_outside hl]
  | len => rw [exec, execLen, underLock_of_outside hl]
  | get req => rw [exec, execGet, underLock_of_outside hl]
  | put n =>
    have henough : s.shortData n = false := shortData_eq_false fun w data hs => hput n w data rfl hs
    rw [exec, execPut_of_enough (life_ne_fatal_of_outside hl) henough, underLock_of_outside hl]
  | release =>
    obtain ⟨hidle, hf⟩ := hrelease rfl
    rw [exec, execRelease_of_quiescent (life_ne_fatal_of_outside hl) hidle hf, whenReady_of_outside hl]

/-! ### INIT in quiescence -/

/-- INIT in READY (R104): the lifecycle check precedes every check of the operand (R242). -/
theorem exec_init_of_ready {s : State} (hl : s.life = .ready) (hidle : ∀ r, r ≠ s.turn → s.slot r = .idle)
    (hf : s.lock = .free) (c : Nat) : exec (.init c) s = .next (s.answer s.turn .badState 0 []) := by
  have hq := (quiescent_iff s s.turn).2 ⟨hidle, hf⟩
  rw [exec, execInit, unlessFatal_of_ne (by simp [hl]), initBody, hq, if_neg (by decide), if_pos hl]

/-- INIT outside READY: the precondition (R101), the allocation (R102), success (R103). -/
theorem exec_init_of_outside {s : State} (hl : s.life = .uninit ∨ s.life = .released)
    (hidle : ∀ r, r ≠ s.turn → s.slot r = .idle) (hf : s.lock = .free) (c : Nat) :
    exec (.init c) s =
      if ∃ k, k < s.params.width ∧ c = 2 ^ k then
        if s.params.maxCapacity < c then .next (s.answer s.turn .allocationFailure 0 [])
        else .next ((s.initCommit c).answer s.turn .ok c [])
      else .next (s.raiseFatal s.turn) := by
  have hq := (quiescent_iff s s.turn).2 ⟨hidle, hf⟩
  rw [exec, execInit, unlessFatal_of_ne (life_ne_fatal_of_outside hl), initBody, hq, if_neg (by decide),
    if_neg (life_ne_ready_of_outside hl)]
  simp only [← isPow2_iff]
  cases isPow2 s.params.width c <;> rfl

/-- A commit whose exported copies are those of its new cursors keeps the option's registers with them (R213). -/
theorem asyncFollows_of_exported {s t : State} {capChanged unit : Bool}
    (h : t.async = exported s.params s.async s.wc s.rc t.wc t.rc capChanged unit) : asyncFollows t s := by
  rw [asyncFollows, h]
  rcases exported_cases s.params s.async s.wc s.rc t.wc t.rc capChanged unit with ⟨hp, e⟩ | ⟨hp, e⟩ <;> rw [e, hp]
  · exact ⟨fun _ => ⟨rfl, rfl⟩, nofun, rfl, rfl⟩
  · exact ⟨nofun, fun _ => rfl, rfl, rfl⟩

/-- Settles O8: a power of two that fits passes both checks, and the rest is INIT's commit. -/
theorem initCreatesBuffer : Obligations.InitCreatesBuffer := by
  intro s c hl hidle hf hpow hle
  have hexec : exec (.init c) s = .next ((s.initCommit c).answer s.turn .ok c []) := by
    rw [exec_init_of_outside hl hidle hf, if_pos hpow, if_neg (Nat.not_lt.2 hle)]
  exact ⟨_, hexec, answeredWith_of_setSlot rfl, rfl, rfl, rfl, rfl, rfl, rfl, ⟨rfl, rfl, rfl, rfl, rfl⟩,
    ⟨rfl, rfl, rfl, rfl, rfl⟩, asyncFollows_of_exported rfl⟩

/-- Settles O9: the operand fails the precondition, and the fatal fault is taken. -/
theorem initFatalFault : Obligations.InitFatalFault := by
  intro s c hl hidle hf hpow
  have hexec : exec (.init c) s = .next (s.raiseFatal s.turn) := by
    rw [exec_init_of_outside hl hidle hf, if_neg]
    rintro ⟨k, hk, hc⟩
    exact hpow k hk hc
  exact ⟨_, hexec, rfl, rfl, slot_of_setSlot rfl, sameOtherSlots_of_setSlot rfl, ⟨rfl, rfl, rfl, rfl⟩, rfl,
    fun _ => rfl, ⟨rfl, rfl, rfl, rfl, rfl⟩, rfl, rfl, rfl, rfl, rfl⟩

/-- Settles O10: the operand passes the precondition and fails the allocation. -/
theorem initAllocationFailure : Obligations.InitAllocationFailure := by
  intro s c hl hidle hf hpow hlt
  have hexec : exec (.init c) s = .next (s.answer s.turn .allocationFailure 0 []) := by
    rw [exec_init_of_outside hl hidle hf, if_pos hpow, if_pos hlt]
  exact ⟨_, hexec, onlyAnswered_answer s .allocationFailure 0⟩

/-- Settles O11: in READY no check of the operand is reached. -/
theorem initWhenReadyRefused : Obligations.InitWhenReadyRefused :=
  fun s c hl hidle hf => ⟨_, exec_init_of_ready hl hidle hf c, onlyAnswered_answer s .badState 0⟩

/-! ### RESET -/

/-- RESET in READY with the lock free takes it, commits and gives it back (R106). -/
theorem exec_reset_of_free {s : State} (hl : s.life = .ready) (hf : s.lock = .free) :
    exec .reset s = .next (resetDone s.turn (s.acquire s.turn)) := by
  rw [exec, execReset, underLock_of_free hl hf]
  rfl

/-- Settles O15: the commit writes the cursors alone, and the lock is given back as it was found (R108). -/
theorem resetEmptiesBuffer : Obligations.ResetEmptiesBuffer := by
  intro s hl hf
  exact ⟨_, exec_reset_of_free hl hf, answeredWith_of_setSlot rfl, rfl, rfl, rfl, ⟨rfl, hf.symm, rfl⟩, fun _ => rfl,
    ⟨rfl, rfl, rfl, rfl, rfl⟩, ⟨rfl, rfl, rfl, rfl, rfl⟩, asyncFollows_of_exported rfl⟩

end Sys2Proof.Machine
end

section
/-! The queries (41_queries.md): IS_EMPTY and IS_FULL read the flags without the lock (R120, R121), LEN the occupancy
under it (R123). -/

namespace Sys2Proof.Machine

/-! ### IS_EMPTY and IS_FULL -/

theorem whenReady_of_ready {s : State} (hl : s.life = .ready) (v : Nat) (body : State → Out) :
    whenReady v body s = body s := by
  rw [whenReady, hl]

theorem boolVal_empty (s : State) : boolVal s.empty = if s.wc = s.rc then 1 else 0 :=
  if_congr (empty_iff s) rfl rfl

theorem boolVal_full (s : State) : boolVal s.full = if wsub s.params.width s.wc s.rc = s.cap then 1 else 0 :=
  if_congr (full_iff s) rfl rfl

/-- IS_EMPTY in READY, whatever the lock (R65, R120). -/
theorem exec_isEmpty_of_ready {s : State} (hl : s.life = .ready) :
    exec .isEmpty s = .next (s.answer s.turn .ok (boolVal s.empty) []) := by
  rw [exec, execIsEmpty, whenReady_of_ready hl]

/-- IS_FULL in READY, whatever the lock (R65, R121). -/
theorem exec_isFull_of_ready {s : State} (hl : s.life = .ready) :
    exec .isFull s = .next (s.answer s.turn .ok (boolVal s.full) []) := by
  rw [exec, execIsFull, whenReady_of_ready hl]

/-- Settles O16: in READY both queries answer their flag, and an answer is all that changes. -/
theorem unlockedQueriesAnswer : Obligations.UnlockedQueriesAnswer := by
  intro s hl
  rw [← boolVal_empty, ← boolVal_full]
  exact ⟨⟨_, exec_isEmpty_of_ready hl, onlyAnswered_answer s .ok _⟩,
    ⟨_, exec_isFull_of_ready hl, onlyAnswered_answer s .ok _⟩⟩

/-! ### LEN -/

/-- Taking the free lock, answering and giving the lock back is answering (R62, R243). -/
theorem releaseLock_answer_acquire {s : State} (hf : s.lock = .free) (g r : Nat) (st : Status) (v : Nat)
    (bs : List Byte) : ((s.acquire g).answer r st v bs).releaseLock = s.answer r st v bs := by
  have hlock : (s.answer r st v bs).releaseLock = { s.answer r st v bs with lock := s.lock } := by
    rw [State.releaseLock, hf]
  exact hlock

/-- LEN in READY with the lock free answers the occupancy and nothing else (R123). -/
theorem exec_len_of_free {s : State} (hl : s.life = .ready) (hf : s.lock = .free) :
    exec .len s = .next (s.answer s.turn .ok s.occ []) := by
  rw [exec, execLen, underLock_of_free hl hf]
  exact congrArg Host.Outcome.next (releaseLock_answer_acquire hf s.turn s.turn .ok s.occ [])

/-- Settles O17: the lock taken for LEN is given back as it was found, which leaves the answer alone. -/
theorem lenAnswersOccupancy : Obligations.LenAnswersOccupancy :=
  fun s hl hf => ⟨_, exec_len_of_free hl hf, onlyAnswered_answer s .ok s.occ⟩

end Sys2Proof.Machine
end

section
/-! PUT and GET (42_put_get.md): a refused PUT (R146), the rejected ones (R141, R151), the transfers themselves (R143,
R144, R152 to R155) and the round trip (R161). -/

namespace Sys2Proof.Machine

/-! ### PUT that stores nothing -/

/-- Settles O20: a PUT looks at its data before the lifecycle, the lock and the free space. -/
theorem putShortDataRefused : Obligations.PutShortDataRefused := by
  intro s n w data hl hs hlt
  have hshort : s.shortData n = true := (shortData_iff s n).2 ⟨w, data, hs, hlt⟩
  rw [exec, execPut, unlessFatal_of_ne hl, hshort, if_pos rfl]

/-- A PUT that is not short of data and does not fit, in READY with the lock free, takes the lock, answers and gives it
back (R141). -/
theorem exec_put_of_noSpace {s : State} {n : Nat} (hl : s.life = .ready) (hf : s.lock = .free)
    (hd : s.shortData n = false) (hn : s.noSpace n = true) :
    exec (.put n) s = .next (s.answer s.turn .insufficientSpace 0 []) := by
  have hbody : putBody n (s.acquire s.turn) = .next (putRejected s.turn (s.acquire s.turn)) := if_pos hn
  rw [exec, execPut_of_enough (by simp [hl]) hd, underLock_of_free hl hf, hbody, putRejected,
    releaseLock_answer_acquire hf]

/-- Settles O19: the space check fails, and the answer is all that changes. -/
theorem putAllOrNothing : Obligations.PutAllOrNothing := by
  intro s n w data hl hf hs hd hlt
  have henough : s.shortData n = false := by
    rw [State.shortData, operandData_of_issued hs]
    exact decide_eq_false (Nat.not_lt.2 hd)
  exact ⟨_, exec_put_of_noSpace hl hf henough (decide_eq_true hlt), onlyAnswered_answer s .insufficientSpace 0⟩

/-! ### PUT that stores -/

/-- With a legal capacity every index lies in the array (R26, R50). -/
theorem cellIndex_lt_maxCapacity {s : State} (hp : isPow2 s.params.width s.cap = true)
    (hc : s.cap ≤ s.params.maxCapacity) (c i : Nat) :
    cellIndex s.params.width s.mask c i < s.params.maxCapacity := by
  rw [mask_eq hp]
  exact Nat.lt_of_lt_of_le (cellIndex_lt hp c i) hc

/-- Settles O18: no two of at most `cap` bytes have the same index, so each keeps its own. -/
theorem putStoresBytes : Obligations.PutStoresBytes := by
  intro s n w data hl hf hs hpow hc ho hn hd
  have hp := (isPow2_iff _ _).2 hpow
  have hav : n ≤ s.avail := by
    rw [avail_eq (isPow2_lt hp).2 ho]
    exact hn
  have hlen : (data.take n).length = n := List.length_take_of_le hd
  obtain ⟨m, hm⟩ := memWrite_isOk (data.take n) 0 s.storage (cellIndex_lt_maxCapacity hp hc s.wc)
  refine ⟨_, exec_put_of_fits hl hf hs hd hav hm, answeredWith_of_setSlot rfl, rfl, rfl, rfl, ⟨rfl, hf.symm, rfl⟩,
    ⟨rfl, rfl, rfl, rfl, rfl⟩, ⟨rfl, rfl, rfl, rfl, rfl⟩, asyncFollows_of_exported rfl, fun i hi => ?_,
    fun a ha => ?_⟩
  · change m.read (cellIndex s.params.width (s.cap - 1) s.wc i) = data[i]?
    have hread := memWrite_read hm (fun j k hjk hk => by
      rw [Nat.zero_add, Nat.zero_add, mask_eq hp]
      exact cellIndex_ne hp s.wc hjk (by omega)) (hlen.symm ▸ hi)
    rwa [Nat.zero_add, mask_eq hp, List.getElem?_take_of_lt hi] at hread
  · refine memWrite_frame hm fun i hi => ?_
    rw [Nat.zero_add, mask_eq hp]
    exact ha i (hlen ▸ hi)

/-! ### GET -/

/-- Settles O22: the empty check precedes the clamp, and the answer is all that changes. -/
theorem getOnEmptyRejected : Obligations.GetOnEmptyRejected := by
  intro s req hl hf he
  have hbody : getBody req (s.acquire s.turn) = .next (getRejected s.turn req (s.acquire s.turn)) :=
    if_pos ((empty_iff s).2 he)
  have hexec : exec (.get req) s = .next (s.answer s.turn .bufferEmpty req []) := by
    rw [exec, execGet, underLock_of_free hl hf, hbody, getRejected, releaseLock_answer_acquire hf]
  exact ⟨_, hexec, onlyAnswered_answer s .bufferEmpty req⟩

/-- A GET in READY with the lock free, when the buffer is not empty and its bytes are read (R152 to R156). -/
theorem exec_get_of_read {s : State} {req : Nat} {out : List Byte} (hl : s.life = .ready) (hf : s.lock = .free)
    (he : s.empty = false)
    (hm : memRead s.params.width s.params.maxCapacity s.mask s.rc s.storage 0 (s.clampGet req) = .ok out) :
    exec (.get req) s = .next (getDone s.turn (s.clampGet req) out (s.acquire s.turn)) := by
  rw [exec, execGet, underLock_of_free hl hf]
  exact getBody_of_read (s := s.acquire s.turn) he hm

/-- Of at most the occupied bytes only all of them bring `rc` to `wc` (R155). -/
theorem wadd_rc_eq_wc_iff {s : State} {n : Nat} (hw : s.wc < 2 ^ s.params.width) (hn : n ≤ s.occ) :
    wadd s.params.width s.rc n = s.wc ↔ n = s.occ := by
  constructor
  · exact fun h => (wsub_eq_of_wadd hw (Nat.lt_of_le_of_lt hn (wsub_lt _ _ _)) h).symm
  · rintro rfl
    exact wadd_wsub hw

theorem advanceRc_of_all {s : State} {n : Nat} (hw : s.wc < 2 ^ s.params.width) (hn : n = s.occ) :
    s.advanceRc n = s.commitCursors 0 0 false :=
  if_pos ((wadd_rc_eq_wc_iff hw (Nat.le_of_eq hn)).2 hn)

theorem advanceRc_of_some {s : State} {n : Nat} (hw : s.wc < 2 ^ s.params.width) (hn : n ≤ s.occ)
    (hne : n ≠ s.occ) :
    s.advanceRc n = s.commitCursors s.wc (wadd s.params.width s.rc n) (n == 1) :=
  if_neg (mt (wadd_rc_eq_wc_iff hw hn).1 hne)

/-- The ending of a GET that delivers writes cursors, lock and one slot: not the sequencer, nor what lies outside the
block; and the option's registers follow the cursors (R154, R213). -/
theorem getDone_frame (s : State) (r n : Nat) (out : List Byte) :
    sameSequencer (getDone r n out s) s ∧ sameOuter (getDone r n out s) s ∧ asyncFollows (getDone r n out s) s := by
  obtain ⟨wc', rc', unit, e⟩ := advanceRc_eq_commitCursors s n
  rw [getDone, e]
  exact ⟨⟨rfl, rfl, rfl, rfl, rfl⟩, ⟨rfl, rfl, rfl, rfl, rfl⟩, asyncFollows_of_exported rfl⟩

/-- Settles O21: every byte up to the occupancy has a value, so the clamped request is read; whether it was everything
decides the commit. -/
theorem getDeliversBytes : Obligations.GetDeliversBytes := by
  intro s req hl hf hne hw hpow hc hvalues
  have hp := (isPow2_iff _ _).2 hpow
  have he : s.empty = false := Bool.eq_false_iff.2 (mt (empty_iff s).1 hne)
  have hn : s.clampGet req ≤ s.occ := Nat.min_le_right req s.occ
  obtain ⟨out, hout⟩ := memRead_isOk (m := s.storage) (i := 0) (n := s.clampGet req)
    (cellIndex_lt_maxCapacity hp hc s.rc) fun i hi => by
      rw [Nat.zero_add, mask_eq hp]
      exact hvalues i (Nat.lt_of_lt_of_le hi hn)
  obtain ⟨hlen, hread⟩ := memRead_ok hout
  obtain ⟨hseq, houter, hasync⟩ := getDone_frame (s.acquire s.turn) s.turn (s.clampGet req) out
  refine ⟨_, s.clampGet req, out, exec_get_of_read hl hf he hout, rfl, answeredWith_of_setSlot (getDone_slots ..),
    hlen, fun i hi => ?_, fun hall => ?_, fun hsome => ?_, getDone_cap .., ⟨getDone_life .., hf.symm, getDone_fatal ..⟩,
    fun a => congrArg (Memory.read · a) (getDone_storage ..), hseq, houter, hasync⟩
  · rw [← hread i hi, Nat.zero_add, mask_eq hp]
  · rw [getDone, advanceRc_of_all (s := s.acquire s.turn) hw hall]
    exact ⟨rfl, rfl⟩
  · rw [getDone, advanceRc_of_some (s := s.acquire s.turn) hw hn hsome]
    exact ⟨rfl, rfl⟩

/-! ### The round trip -/

theorem slotWord_issuedBy (s : State) (r w : Nat) (data : Option (List Byte)) :
    (issuedBy s r w data).slotWord r = w := by
  rw [State.slotWord, slot_issuedBy, if_pos rfl, Slot.word?, Option.getD_some]

/-- Settles O39: after the PUT the occupied bytes are those put, `n` from `rc` on, and the GET takes all of them. -/
theorem roundTrip : Obligations.RoundTrip := by
  intro s n req w w' x h hl hf he hs hx hn hle hreq
  obtain ⟨hwc, _, hcap⟩ := h.width
  obtain ⟨hp, hc, _⟩ := h.cursors hl
  have hpow := (isPow2_iff _ _).1 hp
  have hzero : wsub s.params.width s.wc s.rc = 0 := by rw [he, wsub_self]
  obtain ⟨t, hput, _, htwc, htrc, htcap, ⟨htlife, htlock, _⟩, _, ⟨htparams, _⟩, _, hstored, _⟩ :=
    putStoresBytes s n w x hl hf hs hpow hc (by omega) (by omega) (Nat.le_of_eq hx.symm)
  have hocc : wsub t.params.width t.wc t.rc = n := by
    rw [htparams, htwc, htrc, ← he]
    exact wsub_eq_of_wadd (wadd_lt _ _ _) (by omega) rfl
  have hbytes : ∀ i, i < n → t.storage.read (cellIndex t.params.width (t.cap - 1) t.rc i) = x[i]? := by
    rw [htparams, htcap, htrc, ← he]
    exact hstored
  have hne : t.wc ≠ t.rc := fun e => hn (by rw [← hocc, e, wsub_self])
  obtain ⟨u, k, out, hget, hk, ⟨hanswer, _⟩, hlen, hout, hall, _⟩ :=
    getDeliversBytes (issuedBy t s.turn w' none) req (htlife.trans hl) (htlock.trans hf) hne
      (by rw [issuedBy_wc, issuedBy_params, htwc, htparams]; exact wadd_lt _ _ _)
      (by rw [issuedBy_params, issuedBy_cap, htparams, htcap]; exact hpow)
      (by rw [issuedBy_params, issuedBy_cap, htparams, htcap]; exact hc)
      fun i hi => by
        have hin : i < n := hocc ▸ hi
        exact (congrArg Option.isSome (hbytes i hin)).trans (by rw [List.getElem?_eq_getElem (hx ▸ hin)]; rfl)
  have hkn : k = n := by
    rw [hk]
    exact (congrArg (min req) hocc).trans (Nat.min_eq_right hreq)
  subst hkn
  have hsame : out = x := List.ext_getElem? fun i => by
    rcases Nat.lt_or_ge i k with hi | hi
    · exact (hout i hi).symm.trans (hbytes i hi)
    · rw [List.getElem?_eq_none (by omega), List.getElem?_eq_none (by omega)]
  obtain ⟨huwc, hurc⟩ := hall hocc.symm
  refine ⟨t, u, hput, hget, ?_, huwc, hurc⟩
  rw [← hsame]
  exact hanswer.trans (by rw [issuedBy_turn, slotWord_issuedBy])

end Sys2Proof.Machine
end

section
/-! RELEASE of a live buffer (43_release.md): past quiescence and the lifecycle check only the commit is left (R170). -/

namespace Sys2Proof.Machine

/-- RELEASE in READY, with nobody else in flight and the lock free, frees the buffer and answers (R67, R170). -/
theorem exec_release_of_ready {s : State} (hl : s.life = .ready) (hidle : ∀ r, r ≠ s.turn → s.slot r = .idle)
    (hf : s.lock = .free) : exec .release s = .next (s.releaseCommit.answer s.turn .ok 0 []) := by
  rw [exec, execRelease_of_quiescent (by simp [hl]) hidle hf, whenReady_of_ready hl]

/-- Settles O12: of the registers the commit writes `life` alone, and the lock stays as it was found (R172). -/
theorem releaseFreesBuffer : Obligations.ReleaseFreesBuffer := by
  intro s hl hidle hf
  exact ⟨_, exec_release_of_ready hl hidle hf, answeredWith_of_setSlot rfl, rfl, rfl, rfl, ⟨rfl, rfl, rfl, rfl⟩,
    ⟨rfl, rfl, rfl, rfl, rfl⟩, rfl, rfl, rfl, rfl, rfl⟩

end Sys2Proof.Machine
end

section
/-! The output pins (44_port_protocol.md R182 to R195): when the handshake pins are up, and what an edge of `clk` with
`rst = 1` leaves (R181). -/

namespace Sys2Proof.Machine

/-! ### The hardware reset -/

/-- Settles O31: an edge with `rst = 1` is the hardware reset in any state, and the gray registers follow the cursors
to 0. -/
theorem hardwareReset : Obligations.HardwareReset := by
  intro s inp rest hs hr
  have hedge : step s = .next (State.hardwareReset { s with script := rest }).drawn := by
    rw [step_cons hs, runEvent, clkEdge, hr, if_pos rfl]
  refine ⟨_, hedge, rfl, rfl, rfl, rfl, rfl, rfl, slotAt_nil, fun ha => ?_, rfl, rfl⟩
  rw [drawn_async, hardwareReset_async, exported, if_pos ha]
  exact ⟨gray_zero, gray_zero⟩

/-! ### When a pin is up -/

theorem running_iff (inp : PortIn) (s : State) :
    running inp s = true ↔ inp.rst = false ∧ s.life ≠ .fatal := by
  simp [running]

theorem not_running {inp : PortIn} {s : State} (h : inp.rst = true ∨ s.life = .fatal) : running inp s = false := by
  rw [Bool.eq_false_iff, ne_eq, running_iff]
  rintro ⟨hr, hl⟩
  rcases h with h | h
  · exact nomatch hr.symm.trans h
  · exact hl h

/-- A command is accepted when it is presented and, if it takes the lock, granted (R186, R187). -/
theorem cmdReady_iff (inp : PortIn) (s : State) (r : Nat) :
    cmdReady inp s r = true ↔ running inp s = true ∧ r < s.params.nReq ∧ presents inp s r = true ∧
      (lockTaking s.params.width s.life (inp.req r).cmdWord = true → grantee inp s = some r) := by
  unfold cmdReady
  cases lockTaking s.params.width s.life (inp.req r).cmdWord <;> simp [and_assoc]

theorem inPutData_iff (s : State) (r : Nat) :
    inPutData s r = true ↔ s.lock = .held r ∧ s.phase = .data ∧ ∃ n, s.curCommand = .command (.put n) := by
  unfold inPutData
  split
  · next n hc => simp [hc]
  · next hc => exact iff_of_false (by simp) fun ⟨_, _, n, hn⟩ => hc n hn

theorem inGetData_iff (s : State) (r : Nat) :
    inGetData s r = true ↔ s.lock = .held r ∧ s.phase = .data ∧ ∃ n, s.curCommand = .command (.get n) := by
  unfold inGetData
  split
  · next n hc => simp [hc]
  · next hc => exact iff_of_false (by simp) fun ⟨_, _, n, hn⟩ => hc n hn

theorem rspValid_iff (inp : PortIn) (s : State) (r : Nat) :
    rspValid inp s r = true ↔ running inp s = true ∧ ∃ w rsp, s.slot r = .answered w rsp := by
  unfold rspValid
  cases hs : s.slot r <;> simp

/-- Without the lock, and before the check edge, a requester is in no data phase (R188). -/
theorem no_data_phase {s : State} {r : Nat} (h : s.lock = .held r → s.phase = .check) :
    inPutData s r = false ∧ inGetData s r = false := by
  rw [Bool.eq_false_iff, Bool.eq_false_iff, ne_eq, ne_eq, inPutData_iff, inGetData_iff]
  constructor <;>
  · rintro ⟨hg, hp, _⟩
    exact nomatch (h hg).symm.trans hp

/-! ### Silence -/

/-- Settles O51: every handshake pin is up only while the block runs. -/
theorem silentPorts : Obligations.SilentPorts := by
  intro inp s r h
  have hn := not_running h
  refine ⟨?_, ?_, ?_, ?_, fun hr => ?_, fun hf hl => hf.2 hl⟩
  · rw [cmdReady, hn]
    rfl
  · rw [wdReady, hn]
    rfl
  · rw [rdValid, hn]
    rfl
  · rw [rspValid, hn]
    rfl
  · rw [rdByte, hr, if_pos rfl]

/-! ### The flag pins -/

/-- Settles O53: in READY the pins are the flags, and so are the two queries' answers. -/
theorem flagPinsShowFlags : Obligations.FlagPinsShowFlags := by
  intro s hl
  have hempty : emptyPin s = s.empty := if_pos hl
  have hfull : fullPin s = s.full := if_pos hl
  rw [hempty, hfull]
  exact ⟨rfl, rfl, ⟨_, exec_isEmpty_of_ready hl, slot_of_setSlot rfl⟩,
    ⟨_, exec_isFull_of_ready hl, slot_of_setSlot rfl⟩⟩

/-! ### Acceptance of commands -/

/-- Where somebody waits the arbiter takes somebody (R187). -/
theorem exists_pick {rs : List Nat} {r : Nat} (h : r ∈ rs) (k : Nat) : ∃ g, pick rs k = some g := by
  match rs with
  | [] => cases h
  | [x] => exact ⟨x, rfl⟩
  | x :: y :: rest =>
    have hlt : k % (rest.length + 2) < (x :: y :: rest).length := Nat.mod_lt _ (Nat.succ_pos _)
    exact ⟨_, List.getElem?_eq_getElem hlt⟩

theorem mem_waiting_iff (inp : PortIn) (s : State) (r : Nat) :
    r ∈ waiting inp s ↔ r < s.params.nReq ∧ presents inp s r = true ∧
      lockTaking s.params.width s.life (inp.req r).cmdWord = true := by
  simp only [waiting, List.mem_filter, List.mem_range, Bool.and_eq_true]

theorem grantee_of_held {inp : PortIn} {s : State} {g : Nat} (h : s.lock = .held g) : grantee inp s = none := by
  rw [grantee, h]

/-- Settles O49: an immediate command asks for no grant, a grant is one requester's and needs the lock free, and where
somebody waits there is one. -/
theorem commandAcceptance : Obligations.CommandAcceptance := by
  refine ⟨fun inp s r hr hl hlt hp ht => ?_, fun inp s r r' hc ht => ?_, fun inp s r hr hf hw => ?_⟩
  · refine (cmdReady_iff inp s r).2 ⟨(running_iff inp s).2 ⟨hr, hl⟩, hlt, hp, fun ht' => ?_⟩
    exact nomatch ht.symm.trans ht'
  · have hg := ((cmdReady_iff inp s r).1 hc).2.2.2 ht
    refine ⟨(grantee_waiting hg).1, fun hc' ht' => ?_⟩
    have hg' := ((cmdReady_iff inp s r').1 hc').2.2.2 ht'
    exact Option.some.inj (hg'.symm.trans hg)
  · obtain ⟨g, hpick⟩ := exists_pick hw inp.grant
    have hg : grantee inp s = some g := by rw [grantee, hf, hpick]
    obtain ⟨_, hlt, hp, ht⟩ := grantee_waiting hg
    have hl : s.life ≠ .fatal := by
      rw [life_of_lockTaking ht]
      exact Life.noConfusion
    exact ⟨g, (cmdReady_iff inp s g).2 ⟨(running_iff inp s).2 ⟨hr, hl⟩, hlt, hp, fun _ => hg⟩, ht⟩

/-! ### An answer lasts one clock period -/

/-- The sequencer's edge writes no slot but the holder's (R188 to R191). -/
theorem SequencerResult.sameOtherSlots {inp : PortIn} {g : Nat} {s t : State} (h : SequencerResult inp g s t) :
    sameOtherSlots g t s := by
  cases h with
  | idles | putBegins | getBegins => exact fun _ _ => rfl
  | resets | lens | putRejects | putZero | getRejects | putTakes | getGives => exact sameOtherSlots_of_setSlot rfl
  | putCompletes => exact sameOtherSlots_of_setSlot (setSlot_setSlot ..)
  | getZero => exact sameOtherSlots_of_setSlot (getDone_slots ..)
  | getCompletes => exact sameOtherSlots_of_setSlot ((getDone_slots ..).trans (setSlot_setSlot ..))

/-- Accepting the immediate commands leaves alone whoever presents none (R186). -/
theorem acceptImmediates_slot {life : Life} {rs : List Nat} {s t : State} {r : Nat}
    (h : acceptImmediates life rs s = .next t) (hr : ∀ w, s.slot r ≠ .presented w) : t.slot r = s.slot r := by
  refine acceptImmediates_keeps (P := fun u => u.slot r = s.slot r) (fun r' a b _ ha hab => ?_) h rfl
  rcases acceptImmediate_next hab with rfl | ⟨w, hw, _, hsv⟩
  · exact ha
  · have hne : r ≠ r' := by
      rintro rfl
      exact hr w (ha.symm.trans hw)
    rw [serve_sameOtherSlots hsv r hne, slot_issuedBy, if_neg hne, ha]

/-- The lock's part of an edge touches the holder, who executes, or a requester that is granted the lock, who presents
(R187). -/
theorem lockEdge_slot {inp : PortIn} {before s t : State} {r : Nat} (h : lockEdge inp before s = .next t)
    (hheld : before.lock ≠ .held r) (hp : presents inp before r = false) : t.slot r = s.slot r := by
  rcases lockEdge_next h with ⟨g, hg, hr⟩ | ⟨_, _, rfl⟩ | ⟨g, _, hg, rfl⟩
  · have hne : r ≠ g := by
      rintro rfl
      exact hheld hg
    exact hr.sameOtherSlots r hne
  · rfl
  · have hne : r ≠ g := by
      rintro rfl
      exact nomatch hp.symm.trans (grantee_waiting hg).2.2.1
    rw [slot_grantEdge, if_neg hne]

/-- The edge that captures a response leaves its requester idle (R183, R192). -/
theorem clkEdge_answered {inp : PortIn} {s t : State} {r w : Nat} {rsp : Response} (h : Inv s)
    (hs : s.slot r = .answered w rsp) (he : clkEdge inp s = .next t) : t.slot r = .idle := by
  cases clkEdge_next he with
  | hardReset => exact slot_hardwareReset s r
  | @clocks _ xs u v hx hi hl =>
    have hsample := (sampleSlots_slotAt hx).1 r (h.lt_nReq (by simp [hs]))
    change sampleSlot _ _ (s.slot r) = some (slotAt xs r) at hsample
    rw [hs, sampleSlot] at hsample
    split at hsample
    · cases hsample
    have hidle : State.slot { s with slots := xs } r = .idle := (Option.some.inj hsample).symm
    have hu : u.slot r = .idle := (acceptImmediates_slot hi (by simp [hidle])).trans hidle
    have hheld : s.lock ≠ .held r := fun hg => by
      obtain ⟨_, v, hv, _⟩ := h.holder hg
      exact nomatch hs.symm.trans hv
    have hp : presents inp s r = false := by simp [presents, hs]
    exact (lockEdge_slot hl hheld hp).trans hu

/-! ### The data pins -/

/-- The byte on the pins in a GET's data phase is one of the occupied ones (R60, R190). -/
theorem Inv.rdByte {s : State} {g n : Nat} (h : Inv s) (hg : s.lock = .held g) (hp : s.phase = .data)
    (hc : s.curCommand = .command (.get n)) {inp : PortIn} (hr : inp.rst = false) (hv : rdValid inp s g = true) :
    s.storage.read (cellIndex s.params.width s.mask s.rc s.beat) = some (rdByte inp s g) := by
  have hl := (h.holder hg).1
  obtain ⟨_, hbeat, _⟩ := h.getData hg hp hc
  have hocc := h.get_curN_le_occ hg hp hc
  obtain ⟨b, hb⟩ := Option.isSome_iff_exists.1 (h.occupied hl s.beat (by omega))
  rw [Machine.rdByte, hr, if_neg Bool.false_ne_true, if_pos hv,
    byteAt_of_read (h.buffer.cellIndex_lt hl s.rc s.beat) hb, hb]

/-- Settles O52: each pin is up in its phase and in no other, and the invariant gives the byte of a GET. -/
theorem dataAndResponsePins : Obligations.DataAndResponsePins := by
  intro inp s r h hr hl
  have hrun := (running_iff inp s).2 ⟨hr, hl⟩
  have hwd : wdReady inp s r = inPutData s r := by rw [wdReady, hrun, Bool.true_and]
  have hrd : rdValid inp s r = inGetData s r := by rw [rdValid, hrun, Bool.true_and]
  have hsilent (hq : s.lock = .held r → s.phase = .check) : wdReady inp s r = false ∧ rdValid inp s r = false := by
    rw [hwd, hrd]
    exact no_data_phase hq
  refine ⟨fun w rsp hs => ?_, fun hs => ?_, fun hget => ?_, fun hput => ?_, fun _ hp => ?_, fun hne => ?_⟩
  · have hv := (rspValid_iff inp s r).2 ⟨hrun, w, rsp, hs⟩
    refine ⟨hv, by rw [rspWord, hv, if_pos rfl, hs], fun t ht => ?_⟩
    have hidle := clkEdge_answered h hs ht
    refine ⟨hidle, fun inp' => ?_⟩
    rw [rspValid, hidle, Bool.and_false]
  · rw [Bool.eq_false_iff, ne_eq, rspValid_iff]
    rintro ⟨_, w, rsp, e⟩
    exact hs w rsp e
  · obtain ⟨hg, hp, n, hc⟩ := (inGetData_iff s r).1 hget
    have hv := hrd.trans hget
    refine ⟨hv, hwd.trans ?_, ?_⟩
    · rw [Bool.eq_false_iff, ne_eq, inPutData_iff]
      rintro ⟨_, _, m, hc'⟩
      exact nomatch hc.symm.trans hc'
    · rw [← h.buffer.mask_eq (h.holder hg).1]
      exact h.rdByte hg hp hc hr hv
  · obtain ⟨_, _, n, hc⟩ := (inPutData_iff s r).1 hput
    refine ⟨hwd.trans hput, hrd.trans ?_⟩
    rw [Bool.eq_false_iff, ne_eq, inGetData_iff]
    rintro ⟨_, _, m, hc'⟩
    exact nomatch hc.symm.trans hc'
  · exact hsilent fun _ => hp
  · exact hsilent fun hg => absurd hg hne

end Sys2Proof.Machine
end

section
/-! An edge of `clk` whose inputs keep the protocol (44_port_protocol.md R183 to R187): what sampling leaves, the edges
at which nobody begins to present, and the edges at which one requester alone does. Sampling writes the list of slots
anew, so the states after an edge are given up to the slots they read. -/

namespace Sys2Proof.Machine

/-! ### Sampling -/

/-- Where each requester's slot can be sampled the slots are what each of them becomes (R183). -/
theorem exists_sampled {inp : PortIn} {s : State} {f : Nat → Slot}
    (hlt : ∀ r, r < s.params.nReq → sampleSlot s.params.width (inp.req r) (s.slot r) = some (f r))
    (hge : ∀ r, s.params.nReq ≤ r → f r = .idle) :
    ∃ xs, sampleSlots s.params.width s.params.nReq inp.reqs s.slots = some xs ∧ ∀ r, slotAt xs r = f r := by
  obtain ⟨xs, hx⟩ := Option.isSome_iff_exists.1 (sampleSlots_isSome (xs := s.slots) fun r hr =>
    Option.isSome_of_eq_some (hlt r hr))
  obtain ⟨hin, hout⟩ := sampleSlots_slotAt hx
  refine ⟨xs, hx, fun r => ?_⟩
  rcases Nat.lt_or_ge r s.params.nReq with hr | hr
  · exact Option.some.inj ((hin r hr).symm.trans (hlt r hr))
  · rw [hout r hr, hge r hr]

/-- Without a breach of duty H2 the edge goes on to the immediate commands and the lock (R186, R187, R270). -/
theorem clkEdge_of_accepted {inp : PortIn} {s u : State} {xs : List Slot} (hr : inp.rst = false)
    (hl : s.life ≠ .fatal) (hx : sampleSlots s.params.width s.params.nReq inp.reqs s.slots = some xs)
    (hb : ∀ r, s.slot r = .idle → (inp.req r).cmdValid = true → s.quietBreach r (inp.req r).cmdWord = false)
    (hi : acceptImmediates s.life (List.range s.params.nReq) { s with slots := xs } = .next u) :
    clkEdge inp s = endEdge s (lockEdge inp s u) := by
  have hbreach : portBreach inp s = false := by
    rw [portBreach, List.any_eq_false]
    intro r _ h
    simp only [Bool.and_eq_true, decide_eq_true_eq] at h
    obtain ⟨⟨hs, hv⟩, hq⟩ := h
    exact nomatch (hb r hs hv).symm.trans hq
  rw [clkEdge_running hr hl, runningEdge, hx]
  simp only [hbreach, hi, Bool.false_eq_true, if_false]

/-! ### The immediate commands -/

/-- Who presents nothing, or waits for the lock, has no immediate command (R185). -/
theorem acceptImmediate_of_waiting {life : Life} {r : Nat} {s : State}
    (h : ∀ w, s.slot r = .presented w → lockTaking s.params.width life w = true) :
    acceptImmediate life r s = .next s := by
  unfold acceptImmediate
  split
  · next w hw => rw [if_pos (h w hw)]
  · rfl

theorem acceptImmediates_of_waiting {life : Life} (rs : List Nat) {s : State}
    (h : ∀ r ∈ rs, ∀ w, s.slot r = .presented w → lockTaking s.params.width life w = true) :
    acceptImmediates life rs s = .next s := by
  induction rs with
  | nil => rfl
  | cons r rs ih =>
    obtain ⟨hr, hrs⟩ := List.forall_mem_cons.1 h
    rw [acceptImmediates, acceptImmediate_of_waiting hr]
    exact ih hrs

/-- Where one requester alone presents, accepting all immediate commands is accepting its own (R186). -/
theorem acceptImmediates_of_alone {life : Life} {rs : List Nat} {g : Nat} {s u : State} (hmem : g ∈ rs)
    (hnodup : rs.Nodup) (hg : acceptImmediate life g s = .next u) (hs : ∀ r, r ≠ g → ∀ w, s.slot r ≠ .presented w)
    (hu : ∀ r, r ≠ g → ∀ w, u.slot r ≠ .presented w) : acceptImmediates life rs s = .next u := by
  induction rs with
  | nil => cases hmem
  | cons r rs ih =>
    obtain ⟨hnot, hnodup⟩ := List.nodup_cons.1 hnodup
    rw [acceptImmediates]
    by_cases e : r = g
    · subst e
      rw [hg]
      refine acceptImmediates_of_waiting rs fun r' hr' w hw => absurd hw (hu r' ?_ w)
      rintro rfl
      exact hnot hr'
    · rw [acceptImmediate_of_waiting fun w hw => absurd hw (hs r e w)]
      exact ih (List.mem_of_ne_of_mem (Ne.symm e) hmem) hnodup

theorem presents_iff (inp : PortIn) (s : State) (r : Nat) :
    presents inp s r = true ↔ (inp.req r).cmdValid = true ∧ (s.slot r = .idle ∨ ∃ w, s.slot r = .presented w) := by
  unfold presents
  cases s.slot r <;> simp

/-! ### Nobody begins to present -/

/-- At an edge at which every slot is sampled as it is and nobody presents an immediate command, only the lock's part is
left (R187). -/
theorem clkEdge_of_unchanged {inp : PortIn} {s : State} (hr : inp.rst = false) (hl : s.life ≠ .fatal)
    (hkeep : ∀ r, sampleSlot s.params.width (inp.req r) (s.slot r) = some (s.slot r))
    (hports : ∀ r, s.params.nReq ≤ r → s.slot r = .idle)
    (hwait : ∀ r w, s.slot r = .presented w → lockTaking s.params.width s.life w = true) :
    ∃ xs, (∀ r, slotAt xs r = s.slot r) ∧
      clkEdge inp s = endEdge s (lockEdge inp s { s with slots := xs }) := by
  obtain ⟨xs, hx, hslot⟩ := exists_sampled (fun r _ => hkeep r) hports
  refine ⟨xs, hslot, clkEdge_of_accepted hr hl hx (fun r hs hv => ?_) ?_⟩
  · have h := hkeep r
    rw [hs, sampleSlot, if_pos hv] at h
    exact nomatch h
  · exact acceptImmediates_of_waiting _ fun r _ w hw => hwait r w ((hslot r).symm.trans hw)

/-! ### The holder of the lock -/

theorem lockEdge_of_held {inp : PortIn} {before s : State} {g : Nat} (h : before.lock = .held g) :
    lockEdge inp before s = sequencerEdge inp g s := by
  rw [lockEdge, h]

theorem sequencerEdge_of_check {inp : PortIn} {g : Nat} {s : State} (h : s.phase = .check) :
    sequencerEdge inp g s = checkEdge g s := by
  rw [sequencerEdge, h]

theorem sequencerEdge_of_data {inp : PortIn} {g : Nat} {s : State} (h : s.phase = .data) :
    sequencerEdge inp g s = dataEdge (inp.req g) g s := by
  rw [sequencerEdge, h]

/-- Without the byte of a PUT, or the readiness for that of a GET, the data phase waits (R189, R190). -/
theorem dataEdge_waits {q : ReqIn} {s : State}
    (hput : ∀ n, s.curCommand = .command (.put n) → q.wdValid = false)
    (hget : ∀ n, s.curCommand = .command (.get n) → q.rdReady = false) (g : Nat) : dataEdge q g s = .next s := by
  unfold dataEdge
  split
  · next n hc => rw [hput n hc, if_neg Bool.false_ne_true]
  · next n hc => rw [hget n hc, if_neg Bool.false_ne_true]
  · rfl

/-- Settles O48: every slot is sampled as it is, nobody presents an immediate command, and the holder's data phase
waits. -/
theorem putWaitsForItsByte : Obligations.PutWaitsForItsByte := by
  intro inp s g h hr hg hv hdata hothers
  obtain ⟨hl, w, hw, _⟩ := h.holder hg
  have hphase : s.phase = .data := by
    rcases hdata with ⟨hd, _⟩ | ⟨hd, _⟩
    · exact ((inPutData_iff s g).1 hd).2.1
    · exact ((inGetData_iff s g).1 hd).2.1
  have hkeep (r : Nat) : sampleSlot s.params.width (inp.req r) (s.slot r) = some (s.slot r) := by
    by_cases e : r = g
    · rw [e, hw, sampleSlot, hv, if_neg Bool.false_ne_true]
    · rcases hothers r e with ⟨hs, hq⟩ | ⟨v, hs, hq, hword, _⟩
      · rw [hs, sampleSlot, hq, if_neg Bool.false_ne_true]
      · rw [hs, sampleSlot, hq, hword, Bool.true_and, if_pos (beq_self_eq_true v)]
  have hwait (r v : Nat) (hs : s.slot r = .presented v) : lockTaking s.params.width s.life v = true := by
    have e : r ≠ g := by
      rintro rfl
      exact nomatch hs.symm.trans hw
    rcases hothers r e with ⟨hs', _⟩ | ⟨v', hs', _, _, ht⟩
    · exact nomatch hs.symm.trans hs'
    · obtain rfl : v = v' := by simpa using hs.symm.trans hs'
      rwa [hl]
  have hput (n : Nat) (hc : s.curCommand = .command (.put n)) : (inp.req g).wdValid = false := by
    rcases hdata with ⟨_, hq⟩ | ⟨hd, _⟩
    · exact hq
    · obtain ⟨_, _, m, hc'⟩ := (inGetData_iff s g).1 hd
      exact nomatch hc.symm.trans hc'
  have hget (n : Nat) (hc : s.curCommand = .command (.get n)) : (inp.req g).rdReady = false := by
    rcases hdata with ⟨hd, _⟩ | ⟨_, hq⟩
    · obtain ⟨_, _, m, hc'⟩ := (inPutData_iff s g).1 hd
      exact nomatch hc.symm.trans hc'
    · exact hq
  obtain ⟨xs, hslot, hedge⟩ := clkEdge_of_unchanged hr (by simp [hl]) hkeep h.ports hwait
  have hlock : lockEdge inp s { s with slots := xs } = .next { s with slots := xs } := by
    rw [lockEdge_of_held hg, sequencerEdge_of_data (s := { s with slots := xs }) hphase]
    exact dataEdge_waits (s := { s with slots := xs }) hput hget g
  rw [hlock] at hedge
  refine ⟨_, hedge, ⟨rfl, rfl, rfl, fun _ => rfl, rfl, rfl, rfl, rfl, rfl, hslot⟩, ⟨rfl, rfl, rfl, rfl, rfl⟩,
    fun r => ?_⟩
  rw [Bool.eq_false_iff, ne_eq, cmdReady_iff, grantee_of_held hg]
  rintro ⟨_, _, hp, hready⟩
  obtain ⟨hq, _⟩ := (presents_iff inp s r).1 hp
  by_cases e : r = g
  · rw [e, hv] at hq
    cases hq
  · rcases hothers r e with ⟨_, hq'⟩ | ⟨v, _, _, hword, ht⟩
    · exact nomatch hq.symm.trans hq'
    · rw [← hl, ← hword, lockTaking_wireWord] at ht
      exact nomatch hready ht

end Sys2Proof.Machine
end

section
/-! One requester alone presents a command (44_port_protocol.md R183 to R187): the edge that carries out an immediate
command, and the edge that grants the lock. -/

namespace Sys2Proof.Machine

/-- Requester `g`, with nothing in flight, may begin to present `word`: whoever else has something in flight executes
it, and duty H2 of R270 is kept. -/
structure PresentsAlone (s : State) (g word : Nat) : Prop where
  life : s.life ≠ .fatal
  lt : g < s.params.nReq
  idle : s.slot g = .idle
  others : ∀ r, r ≠ g → s.slot r = .idle ∨ ∃ w bs, s.slot r = .executing w bs
  ports : ∀ r, s.params.nReq ≤ r → s.slot r = .idle
  fits : word < 2 ^ (s.params.width + 4)
  quiet : s.quietBreach g word = false

theorem soloInput_req_same (g : Nat) (q : ReqIn) : (soloInput g q).req g = q := by rw [soloInput_req, if_pos rfl]

theorem soloInput_req_other {g r : Nat} (q : ReqIn) (h : r ≠ g) : (soloInput g q).req r = ReqIn.rest := by
  rw [soloInput_req, if_neg h]

theorem presents_soloInput {s : State} {g r : Nat} {q : ReqIn} (h : presents (soloInput g q) s r = true) : r = g := by
  by_contra hne
  have hv := ((presents_iff _ s r).1 h).1
  rw [soloInput_req_other q hne] at hv
  cases hv

theorem presents_presenting {s : State} {g : Nat} (h : s.slot g = .idle) (word : Nat) :
    presents (soloInput g (presenting word)) s g = true := by
  rw [presents_iff, soloInput_req_same]
  exact ⟨rfl, .inl h⟩

theorem lockEdge_of_granted {inp : PortIn} {before s : State} {g : Nat} (hf : before.lock = .free)
    (hg : grantee inp before = some g) : lockEdge inp before s = .next (grantEdge g (inp.req g).cmdWord s) := by
  rw [lockEdge, hf]
  simp only [hg]

theorem lockEdge_of_no_grant {inp : PortIn} {before s : State} (hf : before.lock = .free)
    (hg : grantee inp before = none) : lockEdge inp before s = .next s := by
  rw [lockEdge, hf]
  simp only [hg]

section
variable {s : State} {g word : Nat} (h : PresentsAlone s g word)
include h

theorem PresentsAlone.not_presented {r : Nat} (hr : r ≠ g) (w : Nat) : s.slot r ≠ .presented w := by
  rcases h.others r hr with hs | ⟨v, bs, hs⟩ <;> simp [hs]

/-- Its own command is all that sampling adds (R183). -/
theorem PresentsAlone.sampled :
    ∃ xs, sampleSlots s.params.width s.params.nReq (soloInput g (presenting word)).reqs s.slots = some xs ∧
      ∀ r, slotAt xs r = if r = g then .presented word else s.slot r := by
  refine exists_sampled (fun r _ => ?_) fun r hr => ?_
  · by_cases e : r = g
    · rw [e, soloInput_req_same, h.idle, if_pos rfl, sampleSlot]
      exact congrArg (some <| Slot.presented ·) (wireWord_of_lt h.fits)
    · rw [soloInput_req_other _ e, if_neg e]
      rcases h.others r e with hs | ⟨v, bs, hs⟩ <;> rw [hs] <;> rfl
  · have hlt := h.lt
    rw [if_neg (by omega)]
    exact h.ports r hr

theorem PresentsAlone.no_breach (r : Nat) (hv : ((soloInput g (presenting word)).req r).cmdValid = true) :
    s.quietBreach r ((soloInput g (presenting word)).req r).cmdWord = false := by
  by_cases e : r = g
  · rw [e, soloInput_req_same]
    exact h.quiet
  · rw [soloInput_req_other _ e] at hv
    cases hv

/-- The edge at which an immediate command is carried out: its effect, then the lock's part (R186, R196). -/
theorem PresentsAlone.clkEdge_immediate (ht : lockTaking s.params.width s.life word = false) :
    ∃ xs, (∀ r, r ≠ g → slotAt xs r = s.slot r) ∧
      ∀ u, serve (issuedBy { s with slots := xs } g word none) = .next u →
        clkEdge (soloInput g (presenting word)) s = endEdge s (lockEdge (soloInput g (presenting word)) s u) := by
  obtain ⟨xs, hx, hslot⟩ := h.sampled
  have hother (r : Nat) (hr : r ≠ g) : slotAt xs r = s.slot r := by rw [hslot, if_neg hr]
  refine ⟨xs, hother, fun u hu => ?_⟩
  have haccept : acceptImmediate s.life g { s with slots := xs } = .next u := by
    have hg : State.slot { s with slots := xs } g = .presented word := by rw [State.slot, hslot, if_pos rfl]
    rw [acceptImmediate, hg]
    change (if lockTaking s.params.width s.life word then _ else _) = _
    rw [if_neg (by rw [ht]; exact Bool.false_ne_true)]
    exact hu
  refine clkEdge_of_accepted rfl h.life hx (fun r _ hv => h.no_breach r hv)
    (acceptImmediates_of_alone (List.mem_range.2 h.lt) List.nodup_range haccept (fun r hr w => ?_) fun r hr w => ?_)
  · rw [State.slot, hother r hr]
    exact h.not_presented hr w
  · rw [serve_sameOtherSlots hu r hr, slot_issuedBy, if_neg hr, State.slot, hother r hr]
    exact h.not_presented hr w

theorem PresentsAlone.grantee_of_lockTaking (hf : s.lock = .free)
    (ht : lockTaking s.params.width s.life word = true) :
    grantee (soloInput g (presenting word)) s = some g := by
  have hw : g ∈ waiting (soloInput g (presenting word)) s := by
    rw [mem_waiting_iff, soloInput_req_same]
    exact ⟨h.lt, presents_presenting h.idle word, ht⟩
  obtain ⟨k, hk⟩ := exists_pick hw 0
  have hg : grantee (soloInput g (presenting word)) s = some k := by
    rw [grantee, hf]
    exact hk
  rw [hg, presents_soloInput (grantee_waiting hg).2.2.1]

/-- The edge that grants the lock to a command that takes it (R187). -/
theorem PresentsAlone.clkEdge_granted (hf : s.lock = .free) (ht : lockTaking s.params.width s.life word = true) :
    ∃ xs, (∀ r, slotAt xs r = if r = g then .executing word [] else s.slot r) ∧
      clkEdge (soloInput g (presenting word)) s =
        .next { grantEdge g word s with slots := xs, draws := s.draws + 1 } := by
  obtain ⟨xs, hx, hslot⟩ := h.sampled
  have haccept : acceptImmediates s.life (List.range s.params.nReq) { s with slots := xs } =
      .next { s with slots := xs } := by
    refine acceptImmediates_of_waiting _ fun r _ w hw => ?_
    change slotAt xs r = _ at hw
    rw [hslot] at hw
    split at hw
    · next e => rwa [← Slot.presented.inj hw]
    · next e => exact absurd hw (h.not_presented e w)
  have hedge := clkEdge_of_accepted rfl h.life hx (fun r _ hv => h.no_breach r hv) haccept
  rw [lockEdge_of_granted hf (h.grantee_of_lockTaking hf ht), soloInput_req_same] at hedge
  refine ⟨setSlot xs g (.executing (wireWord s.params.width word) []), fun r => ?_, hedge⟩
  rw [slotAt_setSlot, hslot, wireWord_of_lt h.fits]
  split <;> rfl

end

/-! ### The same effect on the same block -/

section
variable {s : State} {xs : List Slot} (hx : ∀ r, slotAt xs r = s.slot r)
include hx

theorem slotWord_withSlots (r : Nat) : State.slotWord { s with slots := xs } r = s.slotWord r := by
  rw [State.slotWord, State.slotWord, ← hx r]
  rfl

/-- With slots that read the same, blocks of which only an answer is new are the same. -/
theorem sameBlock_of_onlyAnswered {t u : State} {st : Status} {v : Nat}
    (ht : onlyAnswered t { s with slots := xs } st v) (hu : onlyAnswered u s st v) : sameBlock t u := by
  obtain ⟨⟨hans, hoth⟩, ⟨hwc, hrc, hcap, hasync⟩, ⟨hlife, hlock, hfatal⟩, hbytes, _, hparams, _⟩ := ht
  obtain ⟨⟨hans', hoth'⟩, ⟨hwc', hrc', hcap', hasync'⟩, ⟨hlife', hlock', hfatal'⟩, hbytes', _, hparams', _⟩ := hu
  refine ⟨hwc.trans hwc'.symm, hrc.trans hrc'.symm, hcap.trans hcap'.symm, fun a => (hbytes a).trans (hbytes' a).symm,
    hlife.trans hlife'.symm, hlock.trans hlock'.symm, hfatal.trans hfatal'.symm, hasync.trans hasync'.symm,
    hparams.trans hparams'.symm, fun r => ?_⟩
  by_cases e : r = s.turn
  · rw [e, hans', ← slotWord_withSlots hx]
    exact hans
  · exact (hoth r e).trans ((hx r).trans (hoth' r e).symm)

theorem slot_answer_withSlots (r : Nat) (st : Status) (v : Nat) (bs : List Byte) (r' : Nat) :
    (State.answer { s with slots := xs } r st v bs).slot r' = (s.answer r st v bs).slot r' := by
  rw [slot_answer, slot_answer, slotWord_withSlots hx]
  exact if_congr Iff.rfl rfl (hx r')

theorem sameBlock_answer (st : Status) (v : Nat) :
    sameBlock (State.answer { s with slots := xs } s.turn st v []) (s.answer s.turn st v []) :=
  ⟨rfl, rfl, rfl, fun _ => rfl, rfl, rfl, rfl, rfl, rfl, slot_answer_withSlots hx _ _ _ _⟩

/-- With slots that read the same, rewriting one slot leaves slots that read the same. -/
theorem slot_eq_of_setSlot {t u : State} {r : Nat} {x : Slot} (ht : t.slots = setSlot xs r x)
    (hu : u.slots = setSlot s.slots r x) (r' : Nat) : t.slot r' = u.slot r' := by
  rw [State.slot, State.slot, ht, hu, slotAt_setSlot, slotAt_setSlot, hx]
  rfl

end

/-- The lifecycle states but FATAL and READY (R28). -/
theorem outside_of_ne {s : State} (hf : s.life ≠ .fatal) (hr : s.life ≠ .ready) :
    s.life = .uninit ∨ s.life = .released := by
  cases hl : s.life with
  | uninit => exact .inl rfl
  | released => exact .inr rfl
  | ready => exact absurd hl hr
  | fatal => exact absurd hl hf

/-- Both outcomes are next states, with the same block. -/
def sameNext (o p : Out) : Prop := ∃ t u, o = .next t ∧ p = .next u ∧ sameBlock t u

/-- Requester `s.turn` has issued an immediate command without data, in quiescence (R67, R185). -/
structure ImmediateAlone (s : State) (word : Nat) : Prop where
  life : s.life ≠ .fatal
  lock : s.lock = .free
  issued : s.slot s.turn = .issued ⟨word, none⟩
  others : ∀ r, r ≠ s.turn → s.slot r = .idle
  immediate : lockTaking s.params.width s.life word = false

theorem ImmediateAlone.withSlots {s : State} {word : Nat} {xs : List Slot} (h : ImmediateAlone s word)
    (hx : ∀ r, slotAt xs r = s.slot r) : ImmediateAlone { s with slots := xs } word :=
  ⟨h.life, h.lock, (hx _).trans h.issued, fun r hr => (hx r).trans (h.others r hr), h.immediate⟩

section
variable {s : State} {word : Nat} {xs : List Slot} (h : ImmediateAlone s word) (hx : ∀ r, slotAt xs r = s.slot r)
include h hx

/-- INIT outside READY, with slots that read the same (R101 to R103). -/
theorem ImmediateAlone.exec_init (hl : s.life = .uninit ∨ s.life = .released) (c : Nat) :
    sameNext (exec (.init c) { s with slots := xs }) (exec (.init c) s) := by
  have h' := h.withSlots hx
  rw [exec_init_of_outside (s := { s with slots := xs }) hl h'.others h.lock, exec_init_of_outside hl h.others h.lock]
  by_cases hp : ∃ k, k < s.params.width ∧ c = 2 ^ k
  · by_cases hc : s.params.maxCapacity < c
    · simp only [if_pos hp, if_pos hc]
      exact ⟨_, _, rfl, rfl, sameBlock_answer hx _ _⟩
    · simp only [if_pos hp, if_neg hc]
      exact ⟨_, _, rfl, rfl, rfl, rfl, rfl, fun _ => rfl, rfl, rfl, rfl, rfl, rfl, slot_answer_withSlots hx _ _ _ _⟩
  · simp only [if_neg hp]
    exact ⟨_, _, rfl, rfl, rfl, rfl, rfl, fun _ => rfl, rfl, rfl, rfl, rfl, rfl, slot_eq_of_setSlot hx rfl rfl⟩

theorem ImmediateAlone.exec_of_outside (hl : s.life = .uninit ∨ s.life = .released) (i : Instr) :
    sameNext (exec i { s with slots := xs }) (exec i s) := by
  by_cases hinit : ∃ c, i = .init c
  · obtain ⟨c, rfl⟩ := hinit
    exact h.exec_init hx hl c
  have hne (c : Nat) (e : i = .init c) : False := hinit ⟨c, e⟩
  have h' := h.withSlots hx
  obtain ⟨t, ht, hta⟩ := outsideReadyBadState { s with slots := xs } i hl hne (fun _ => ⟨h'.others, h'.lock⟩)
    fun n w data _ hs => nomatch h'.issued.symm.trans hs
  obtain ⟨u, hu, hua⟩ := outsideReadyBadState s i hl hne (fun _ => ⟨h.others, h.lock⟩)
    fun n w data _ hs => nomatch h.issued.symm.trans hs
  exact ⟨t, u, ht, hu, sameBlock_of_onlyAnswered hx hta hua⟩

/-- In READY the immediate operations are INIT, IS_EMPTY, IS_FULL and RELEASE (R185). -/
theorem ImmediateAlone.exec_of_ready (hl : s.life = .ready) {i : Instr}
    (hd : decode s.params.width word = .command i) :
    sameNext (exec i { s with slots := xs }) (exec i s) := by
  have h' := h.withSlots hx
  have ht := h.immediate
  rw [lockTaking, hl, hd] at ht
  cases i with
  | reset | len | put | get => cases ht
  | init c =>
    exact ⟨_, _, exec_init_of_ready (s := { s with slots := xs }) hl h'.others h'.lock c,
      exec_init_of_ready hl h.others h.lock c,
      sameBlock_answer hx _ _⟩
  | isEmpty =>
    exact ⟨_, _, exec_isEmpty_of_ready (s := { s with slots := xs }) hl, exec_isEmpty_of_ready hl,
      sameBlock_answer hx _ _⟩
  | isFull =>
    exact ⟨_, _, exec_isFull_of_ready (s := { s with slots := xs }) hl, exec_isFull_of_ready hl,
      sameBlock_answer hx _ _⟩
  | release =>
    exact ⟨_, _, exec_release_of_ready (s := { s with slots := xs }) hl h'.others h'.lock,
      exec_release_of_ready hl h.others h.lock,
      rfl, rfl, rfl, fun _ => rfl, rfl, rfl, rfl, rfl, rfl, slot_answer_withSlots hx _ _ _ _⟩

/-- The effect of an immediate command reads the slots only one by one. -/
theorem ImmediateAlone.serve : sameNext (Machine.serve { s with slots := xs }) (Machine.serve s) := by
  have h' := h.withSlots hx
  cases hd : decode s.params.width word with
  | reserved c =>
    exact ⟨_, _, serve_of_reserved (s := { s with slots := xs }) h'.life h'.issued hd,
      serve_of_reserved h.life h.issued hd,
      sameBlock_answer hx _ _⟩
  | command i =>
    rw [serve_of_issued (s := { s with slots := xs }) h'.issued hd, serve_of_issued h.issued hd]
    by_cases hl : s.life = .ready
    · exact h.exec_of_ready hx hl hd
    · exact h.exec_of_outside hx (outside_of_ne h.life hl) i

end

/-! ### Over the ports -/

theorem quietBreach_of_idle {s : State} {g : Nat} (h : ∀ r, r ≠ g → s.slot r = .idle) (word : Nat) :
    s.quietBreach g word = false := by
  rw [Bool.eq_false_iff, ne_eq, quietBreach_iff]
  rintro (⟨r, hr, hq⟩ | ⟨_, r, hr, hs⟩)
  · rw [h r hr] at hq
    cases hq
  · exact hs (h r hr)

theorem presentsAlone_of_idle {s : State} {g word : Nat} (hl : s.life ≠ .fatal) (hg : g < s.params.nReq)
    (hidle : ∀ r, s.slot r = .idle) (hword : word < 2 ^ (s.params.width + 4)) : PresentsAlone s g word :=
  ⟨hl, hg, hidle g, fun r _ => .inl (hidle r), fun r _ => hidle r, hword, quietBreach_of_idle (fun r _ => hidle r) word⟩

theorem wordNeedsQuiet_of_lockTaking {w word : Nat} {life : Life} (h : lockTaking w life word = true) :
    wordNeedsQuiet w word = false := by
  simp only [lockTaking, Bool.and_eq_true] at h
  unfold wordNeedsQuiet
  split
  · next hd => simp [hd] at h
  · next hd => simp [hd] at h
  · rfl

/-- While the command of the holder executes, any other requester may present a command without quiescence. -/
theorem Inv.presentsAlone {s : State} {g k word : Nat} (h : Inv s) (hk : s.lock = .held k) (hne : g ≠ k)
    (hg : g < s.params.nReq) (hidle : ∀ r, r ≠ k → s.slot r = .idle) (hword : word < 2 ^ (s.params.width + 4))
    (hq : wordNeedsQuiet s.params.width word = false) : PresentsAlone s g word := by
  obtain ⟨hl, w, hw, ht, _⟩ := h.holder hk
  refine ⟨by simp [hl], hg, hidle g hne, fun r _ => ?_, h.ports, hword, ?_⟩
  · by_cases e : r = k
    · exact .inr ⟨w, _, e ▸ hw⟩
    · exact .inl (hidle r e)
  · rw [Bool.eq_false_iff, ne_eq, quietBreach_iff, hq]
    rintro (⟨r, _, hr⟩ | ⟨hf, _⟩)
    · by_cases e : r = k
      · rw [e, hw] at hr
        exact nomatch (wordNeedsQuiet_of_lockTaking ht).symm.trans hr
      · rw [hidle r e] at hr
        cases hr
    · cases hf

/-- With the holder's pins at rest the sequencer goes on or waits (R188 to R190). -/
theorem sequencerEdge_of_rest {inp : PortIn} {g : Nat} (h : inp.req g = ReqIn.rest) (s : State) :
    ∃ t, sequencerEdge inp g s = .next t := by
  cases hp : s.phase with
  | check =>
    rw [sequencerEdge_of_check hp, checkEdge]
    split
    · exact ⟨_, rfl⟩
    · exact ⟨_, rfl⟩
    · split
      · exact ⟨_, rfl⟩
      · split <;> exact ⟨_, rfl⟩
    · split
      · exact ⟨_, rfl⟩
      · split <;> exact ⟨_, rfl⟩
    · exact ⟨_, rfl⟩
  | data =>
    rw [sequencerEdge_of_data hp, h]
    exact ⟨s, dataEdge_waits (fun _ _ => rfl) (fun _ _ => rfl) g⟩

/-- Under a held lock an immediate command other than INIT and RELEASE is answered at the edge that takes it, and the
holder's sequencer does not touch the answer (R186, R196). -/
theorem Inv.clkEdge_immediate {s : State} {g k word : Nat} (h : Inv s) (hk : s.lock = .held k) (hne : g ≠ k)
    (hg : g < s.params.nReq) (hidle : ∀ r, r ≠ k → s.slot r = .idle) (hword : word < 2 ^ (s.params.width + 4))
    {st : Status} {v : Nat} (hq : wordNeedsQuiet s.params.width word = false)
    (ht : lockTaking s.params.width s.life word = false)
    (hserve : ∀ xs, serve (issuedBy { s with slots := xs } g word none) =
      .next ((issuedBy { s with slots := xs } g word none).answer g st v [])) :
    ∃ t, clkEdge (soloInput g (presenting word)) s = .next t ∧ t.slot g = .answered word ⟨st, v, []⟩ := by
  obtain ⟨xs, _, hedge⟩ := (h.presentsAlone hk hne hg hidle hword hq).clkEdge_immediate ht
  have hedge := hedge _ (hserve xs)
  obtain ⟨t, hseq⟩ := sequencerEdge_of_rest (soloInput_req_other (presenting word) (Ne.symm hne))
    ((issuedBy { s with slots := xs } g word none).answer g st v [])
  rw [lockEdge_of_held hk, hseq] at hedge
  refine ⟨_, hedge, ?_⟩
  have hslot := (sequencerEdge_next hseq).sameOtherSlots g hne
  rw [slot_answer, if_pos rfl, slotWord_issuedBy] at hslot
  exact hslot

/-- Under a held lock a command of another requester is accepted exactly when it does not take the lock (R186, R187). -/
theorem cmdReady_of_held {s : State} {g k : Nat} (h : Inv s) (hk : s.lock = .held k)
    (hg : g < s.params.nReq) (hs : s.slot g = .idle) (word : Nat) :
    cmdReady (soloInput g (presenting word)) s g = !lockTaking s.params.width s.life word := by
  have hl : s.life ≠ .fatal := by simp [(h.holder hk).1]
  have hreq := soloInput_req_same g (presenting word)
  cases ht : lockTaking s.params.width s.life word with
  | false => exact commandAcceptance.1 _ s g rfl hl hg (presents_presenting hs word) (by rwa [hreq])
  | true =>
    rw [Bool.not_true, Bool.eq_false_iff, ne_eq, cmdReady_iff, grantee_of_held hk, hreq]
    rintro ⟨_, _, _, hready⟩
    exact nomatch hready ht

/-- Settles O44: with the lock free nothing follows the effect, which reads the sampled slots as it does those of the
transaction level; under a held lock the three commands without a write are answered by their effect. -/
theorem immediateCommandOverPorts : Obligations.ImmediateCommandOverPorts := by
  refine ⟨fun s g word hl hf hg hidle hword ht => ?_, fun s g k word h hk hne hg hidle hword => ?_⟩
  · have hp := presentsAlone_of_idle hl hg hidle hword
    have hnone : grantee (soloInput g (presenting word)) s = none := by
      rw [Option.eq_none_iff_forall_ne_some]
      intro r hr
      obtain ⟨_, _, hpr, htr⟩ := grantee_waiting hr
      rw [presents_soloInput hpr, soloInput_req_same] at htr
      exact nomatch ht.symm.trans htr
    refine ⟨commandAcceptance.1 _ s g rfl hl hg (presents_presenting (hidle g) word) (by rwa [soloInput_req_same]), ?_⟩
    obtain ⟨xs, hslot, hedge⟩ := hp.clkEdge_immediate ht
    have himm : ImmediateAlone (issuedBy s g word none) word :=
      ⟨hl, hf, slot_of_setSlot rfl, fun r hr => (sameOtherSlots_of_setSlot rfl r hr).trans (hidle r), ht⟩
    obtain ⟨t, u, ht', hu, hsame⟩ := himm.serve (xs := setSlot xs g (.issued ⟨word, none⟩)) fun r => by
      rw [slotAt_setSlot, slot_issuedBy]
      split
      · rfl
      · next hr => exact hslot r hr
    have hedge := hedge t ht'
    rw [lockEdge_of_no_grant hf hnone] at hedge
    exact ⟨_, u, hedge, hu, hsame⟩
  · have hl := (h.holder hk).1
    rw [← boolVal_empty, ← boolVal_full]
    have haccepted {st : Status} {v : Nat} := @Inv.clkEdge_immediate s g k word h hk hne hg hidle hword st v
    have hissued (xs : List Slot) : (issuedBy { s with slots := xs } g word none).slot g = .issued ⟨word, none⟩ :=
      slot_of_setSlot rfl
    refine ⟨cmdReady_of_held h hk hg (hidle g hne) word, fun hd => ?_, fun hd => ?_, fun hd => ?_⟩
    · exact haccepted (by rw [wordNeedsQuiet, hd]) (by simp [lockTaking, hd]) fun xs =>
        (serve_of_issued (hissued xs) hd).trans (exec_isEmpty_of_ready hl)
    · exact haccepted (by rw [wordNeedsQuiet, hd]) (by simp [lockTaking, hd]) fun xs =>
        (serve_of_issued (hissued xs) hd).trans (exec_isFull_of_ready hl)
    · exact haccepted (by rw [wordNeedsQuiet, hd]) (by simp [lockTaking, hd]) fun xs =>
        serve_of_reserved (by simp [hl]) (hissued xs) hd

end Sys2Proof.Machine
end

section
/-! Endings of one operation at both levels (44_port_protocol.md R188 to R191, R196): where the blocks agree but for the
lock, and the operation in flight has the same word, each ending leaves the same block. -/

namespace Sys2Proof.Machine

theorem sameBlock_trans {t u v : State} (h : sameBlock t u) (k : sameBlock u v) : sameBlock t v := by
  obtain ⟨hwc, hrc, hcap, hbytes, hlife, hlock, hfatal, hasync, hparams, hslot⟩ := h
  obtain ⟨kwc, krc, kcap, kbytes, klife, klock, kfatal, kasync, kparams, kslot⟩ := k
  exact ⟨hwc.trans kwc, hrc.trans krc, hcap.trans kcap, fun a => (hbytes a).trans (kbytes a), hlife.trans klife,
    hlock.trans klock, hfatal.trans kfatal, hasync.trans kasync, hparams.trans kparams,
    fun r => (hslot r).trans (kslot r)⟩

/-- The blocks agree but for the lock, and requester `g`'s operation in flight has the same word. -/
structure InFlightAlike (g : Nat) (t s : State) : Prop where
  wc : t.wc = s.wc
  rc : t.rc = s.rc
  cap : t.cap = s.cap
  bytes : sameBytes t s
  life : t.life = s.life
  fatal : t.fatal = s.fatal
  async : t.async = s.async
  params : t.params = s.params
  word : t.slotWord g = s.slotWord g
  others : ∀ r, r ≠ g → t.slot r = s.slot r

section
variable {g : Nat} {t s : State} (h : InFlightAlike g t s)
include h

/-- The answer that gives the lock back (R62, R243). -/
theorem InFlightAlike.ended (st : Status) (v : Nat) (bs : List Byte) :
    sameBlock (t.answer g st v bs).releaseLock (s.answer g st v bs).releaseLock := by
  refine ⟨h.wc, h.rc, h.cap, h.bytes, h.life, rfl, h.fatal, h.async, h.params, fun r => ?_⟩
  change (t.answer g st v bs).slot r = (s.answer g st v bs).slot r
  rw [slot_answer, slot_answer, h.word]
  split
  · rfl
  · next hr => exact h.others r hr

theorem InFlightAlike.commitCursors (wc' rc' : Nat) (unit : Bool) :
    InFlightAlike g (t.commitCursors wc' rc' unit) (s.commitCursors wc' rc' unit) := by
  refine ⟨rfl, rfl, h.cap, h.bytes, h.life, h.fatal, ?_, h.params, h.word, h.others⟩
  rw [commitCursors_async, commitCursors_async, h.params, h.async, h.wc, h.rc]

theorem InFlightAlike.advanceWc (n : Nat) : InFlightAlike g (t.advanceWc n) (s.advanceWc n) := by
  rw [State.advanceWc, State.advanceWc, h.params, h.wc, h.rc]
  exact h.commitCursors ..

theorem InFlightAlike.advanceRc (n : Nat) : InFlightAlike g (t.advanceRc n) (s.advanceRc n) := by
  rw [State.advanceRc, State.advanceRc, h.params, h.wc, h.rc]
  split <;> exact h.commitCursors ..

theorem InFlightAlike.latchN (n : Nat) : InFlightAlike g (t.latchN n) s :=
  ⟨h.wc, h.rc, h.cap, h.bytes, h.life, h.fatal, h.async, h.params, h.word, h.others⟩

theorem InFlightAlike.stored (m : Memory) : InFlightAlike g { t with storage := m } { s with storage := m } :=
  ⟨h.wc, h.rc, h.cap, fun _ => rfl, h.life, h.fatal, h.async, h.params, h.word, h.others⟩

theorem InFlightAlike.resetDone : sameBlock (resetDone g t) (resetDone g s) := (h.commitCursors 0 0 false).ended ..

theorem InFlightAlike.putDone (n : Nat) : sameBlock (putDone g n t) (putDone g n s) := (h.advanceWc n).ended ..

theorem InFlightAlike.getDone (n : Nat) (out : List Byte) : sameBlock (getDone g n out t) (getDone g n out s) :=
  (h.advanceRc n).ended ..

end

/-- An answer given under a lock that was free before (R62). -/
theorem InFlightAlike.answered {g : Nat} {t s : State} (h : InFlightAlike g t (s.acquire g)) (hf : s.lock = .free)
    (st : Status) (v : Nat) (bs : List Byte) : sameBlock (t.answer g st v bs).releaseLock (s.answer g st v bs) := by
  rw [← releaseLock_answer_acquire hf g g st v bs]
  exact h.ended st v bs

end Sys2Proof.Machine
end

section
/-! The edges of a data phase (44_port_protocol.md R189, R190) while one requester holds the lock and nobody else has
anything in flight: each beat, and all of them against the transfer in one piece. -/

namespace Sys2Proof.Machine

/-! ### An edge while one requester executes alone -/

/-- In READY requester `g` holds the lock, executes `word` and has moved these bytes; nobody else has anything in
flight. -/
structure HeldAlone (s : State) (g word : Nat) (bs : List Byte) : Prop where
  life : s.life = .ready
  lt : g < s.params.nReq
  lock : s.lock = .held g
  executing : s.slot g = .executing word bs
  others : ∀ r, r ≠ g → s.slot r = .idle

section
variable {s : State} {g word : Nat} {bs : List Byte} (h : HeldAlone s g word bs)
include h

/-- An edge at which the holder presents nothing is the sequencer's (R188 to R191). -/
theorem HeldAlone.clkEdge {q : ReqIn} (hq : q.cmdValid = false) :
    ∃ xs, (∀ r, slotAt xs r = s.slot r) ∧
      clkEdge (soloInput g q) s = endEdge s (sequencerEdge (soloInput g q) g { s with slots := xs }) := by
  have hlt := h.lt
  obtain ⟨xs, hslot, hedge⟩ := clkEdge_of_unchanged (inp := soloInput g q) rfl (by simp [h.life])
    (fun r => by
      by_cases e : r = g
      · rw [e, soloInput_req_same, h.executing, sampleSlot, hq, if_neg Bool.false_ne_true]
      · rw [soloInput_req_other q e, h.others r e]
        rfl)
    (fun r hr => h.others r (by omega))
    fun r w hw => by
      by_cases e : r = g
      · rw [e, h.executing] at hw
        cases hw
      · rw [h.others r e] at hw
        cases hw
  rw [lockEdge_of_held h.lock] at hedge
  exact ⟨xs, hslot, hedge⟩

theorem HeldAlone.withSlots {t : State} (hs : ∀ r, t.slot r = s.slot r)
    (e : t.life = s.life ∧ t.params = s.params ∧ t.lock = s.lock := by exact ⟨rfl, rfl, rfl⟩) :
    HeldAlone t g word bs := by
  obtain ⟨hlife, hparams, hlock⟩ := e
  exact ⟨hlife.trans h.life, hparams ▸ h.lt, hlock.trans h.lock, (hs g).trans h.executing,
    fun r hr => (hs r).trans (h.others r hr)⟩

theorem HeldAlone.beatDone (b : Byte) : HeldAlone (s.beatDone g b) g word (bs ++ [b]) := by
  refine ⟨h.life, h.lt, h.lock, ?_, fun r hr => ?_⟩
  · rw [slot_beatDone, if_pos rfl, slotWord_of_executing h.executing, moved_of_executing h.executing]
  · rw [slot_beatDone, if_neg hr, h.others r hr]

end

/-- Two blocks that agree, with the same command held alone, will end it alike. -/
theorem HeldAlone.alike {t s : State} {g word : Nat} {cs bs : List Byte} (ht : HeldAlone t g word cs)
    (hs : HeldAlone s g word bs)
    (e : t.wc = s.wc ∧ t.rc = s.rc ∧ t.cap = s.cap ∧ t.storage = s.storage ∧ t.fatal = s.fatal ∧ t.async = s.async ∧
      t.params = s.params := by exact ⟨rfl, rfl, rfl, rfl, rfl, rfl, rfl⟩) : InFlightAlike g t s := by
  obtain ⟨hwc, hrc, hcap, hstorage, hfatal, hasync, hparams⟩ := e
  exact ⟨hwc, hrc, hcap, fun a => by rw [hstorage], ht.life.trans hs.life.symm, hfatal, hasync, hparams,
    (slotWord_of_executing ht.executing).trans (slotWord_of_executing hs.executing).symm,
    fun r hr => (ht.others r hr).trans (hs.others r hr).symm⟩

/-- The state an edge ends in (log 17). -/
def endState (before s : State) : State := { s with turn := before.turn, draws := before.draws + 1 }

theorem endEdge_of_next (before s : State) : endEdge before (.next s) = .next (endState before s) := rfl

theorem runEdges_cons {inp : PortIn} {s t : State} (h : clkEdge inp s = .next t) (rest : List PortIn) :
    runEdges (inp :: rest) s = runEdges rest t := by
  rw [runEdges, h]

/-! ### Beats -/

theorem dataEdge_offering {s : State} {n : Nat} (hc : s.curCommand = .command (.put n)) (g : Nat) (b : Byte) :
    dataEdge (offering b) g s = putBeat g b s := by
  rw [dataEdge, hc]
  exact if_pos rfl

theorem dataEdge_taking {s : State} {n : Nat} (hc : s.curCommand = .command (.get n)) (g : Nat) :
    dataEdge taking g s = getBeat g s := by
  rw [dataEdge, hc]
  exact if_pos rfl

theorem putBeat_of_stored {s : State} {b : Byte} {m : Memory}
    (hm : storeAt s.params.maxCapacity (cellIndex s.params.width s.mask s.wc s.beat) b s.storage = .ok m) (g : Nat) :
    putBeat g b s =
      .next (if s.lastBeat then putDone g s.curN (State.beatDone { s with storage := m } g b)
        else State.beatDone { s with storage := m } g b) := by
  rw [putBeat, hm]
  cases s.lastBeat <;> rfl

theorem getBeat_of_read {s : State} {b : Byte}
    (hm : byteAt s.params.maxCapacity (cellIndex s.params.width s.mask s.rc s.beat) s.storage = .ok b) (g : Nat) :
    getBeat g s =
      .next (if s.lastBeat then getDone g s.curN (s.moved g ++ [b]) (s.beatDone g b) else s.beatDone g b) := by
  rw [getBeat, hm]
  cases s.lastBeat <;> rfl

/-- The state in which an edge that has moved byte `b` ends, with these slots before the move and this storage (R189,
R190). -/
def State.afterBeat (s : State) (g : Nat) (b : Byte) (xs : List Slot) (m : Memory) : State :=
  endState s (State.beatDone { s with slots := xs, storage := m } g b)

theorem afterBeat_beat {s : State} (hb : s.beat < s.curN) (hn : s.curN < 2 ^ s.params.width) (g : Nat) (b : Byte)
    (xs : List Slot) (m : Memory) : (s.afterBeat g b xs m).beat = s.beat + 1 :=
  beatDone_beat_eq (s := { s with slots := xs, storage := m }) hb hn g b

theorem HeldAlone.afterBeat {s : State} {g word : Nat} {bs : List Byte} (h : HeldAlone s g word bs) {xs : List Slot}
    (hslot : ∀ r, slotAt xs r = s.slot r) (b : Byte) (m : Memory) :
    HeldAlone (s.afterBeat g b xs m) g word (bs ++ [b]) := by
  have hnow : HeldAlone { s with slots := xs, storage := m } g word bs := h.withSlots hslot
  exact (hnow.beatDone b).withSlots fun _ => rfl

section
variable {s : State} {g word n : Nat} {bs : List Byte} (h : HeldAlone s g word bs) (hp : s.phase = .data)
  (hbeat : s.beat < s.curN) (hlt : s.curN < 2 ^ s.params.width)
include h hp hbeat hlt

/-- The edge that takes a PUT's byte: it is stored, and with the last one the PUT ends (R189). -/
theorem HeldAlone.clkEdge_offering (hc : s.curCommand = .command (.put n)) {b : Byte} {m : Memory}
    (hm : storeAt s.params.maxCapacity (cellIndex s.params.width s.mask s.wc s.beat) b s.storage = .ok m) :
    ∃ xs, HeldAlone (s.afterBeat g b xs m) g word (bs ++ [b]) ∧
      Machine.clkEdge (soloInput g (offering b)) s =
        .next (if s.beat + 1 = s.curN then
            endState s (putDone g s.curN (State.beatDone { s with slots := xs, storage := m } g b))
          else s.afterBeat g b xs m) := by
  obtain ⟨xs, hslot, hedge⟩ := h.clkEdge (q := offering b) rfl
  refine ⟨xs, h.afterBeat hslot b m, ?_⟩
  rw [hedge, sequencerEdge_of_data (s := { s with slots := xs }) hp, soloInput_req_same,
    dataEdge_offering (s := { s with slots := xs }) hc, putBeat_of_stored (s := { s with slots := xs }) hm,
    lastBeat_eq (s := { s with slots := xs }) hbeat hlt]
  simp only [decide_eq_true_eq, endEdge_of_next]
  split <;> rfl

/-- The edge that gives a GET's byte, and with the last one ends the GET (R190). -/
theorem HeldAlone.clkEdge_taking (hc : s.curCommand = .command (.get n)) {b : Byte}
    (hm : byteAt s.params.maxCapacity (cellIndex s.params.width s.mask s.rc s.beat) s.storage = .ok b) :
    ∃ xs, HeldAlone (s.afterBeat g b xs s.storage) g word (bs ++ [b]) ∧
      Machine.clkEdge (soloInput g taking) s =
        .next (if s.beat + 1 = s.curN then
            endState s (getDone g s.curN (bs ++ [b]) (State.beatDone { s with slots := xs } g b))
          else s.afterBeat g b xs s.storage) := by
  obtain ⟨xs, hslot, hedge⟩ := h.clkEdge (q := taking) rfl
  have hnow : HeldAlone { s with slots := xs } g word bs := h.withSlots hslot
  refine ⟨xs, h.afterBeat hslot b s.storage, ?_⟩
  rw [hedge, sequencerEdge_of_data (s := { s with slots := xs }) hp, soloInput_req_same,
    dataEdge_taking (s := { s with slots := xs }) hc, getBeat_of_read (s := { s with slots := xs }) hm,
    lastBeat_eq (s := { s with slots := xs }) hbeat hlt, moved_of_executing hnow.executing]
  simp only [decide_eq_true_eq, endEdge_of_next]
  split <;> rfl

end

/-! ### Data phases -/

/-- The edges of a PUT's data phase store its bytes as the transaction level does in one piece, and end it (R189). -/
theorem HeldAlone.runEdges_offering {g word n : Nat} {m : Memory} (data : List Byte) {s : State} {bs : List Byte}
    (h : HeldAlone s g word bs) (hp : s.phase = .data) (hc : s.curCommand = .command (.put n))
    (hlt : s.curN < 2 ^ s.params.width) (hne : data ≠ []) (hlen : s.beat + data.length = s.curN)
    (hm : memWrite s.params.width s.params.maxCapacity s.mask s.wc s.beat data s.storage = .ok m) :
    ∃ t, runEdges (data.map fun b => soloInput g (offering b)) s = .next t ∧
      sameBlock t (putDone g s.curN { s with storage := m }) := by
  induction data generalizing s bs with
  | nil => exact absurd rfl hne
  | cons b rest ih =>
    rw [List.length_cons] at hlen
    rw [memWrite] at hm
    split at hm
    case h_2 => cases hm
    next m' hm' =>
    have hbeat : s.beat < s.curN := by omega
    obtain ⟨xs, hnext, hedge⟩ := h.clkEdge_offering hp hbeat hlt hc hm'
    have hstored : HeldAlone { s with storage := m } g word bs := h.withSlots fun _ => rfl
    rw [List.map_cons, runEdges_cons hedge]
    by_cases hlast : s.beat + 1 = s.curN
    · obtain rfl : rest = [] := List.eq_nil_of_length_eq_zero (by omega)
      obtain rfl : m' = m := Except.ok.inj hm
      rw [if_pos hlast]
      have hend : HeldAlone (State.beatDone { s with slots := xs, storage := m' } g b) g word (bs ++ [b]) :=
        hnext.withSlots fun _ => rfl
      exact ⟨_, rfl, (hend.alike hstored).putDone s.curN⟩
    · have hsucc := afterBeat_beat hbeat hlt g b xs m'
      have hrest : rest ≠ [] := fun e => hlast (by rw [e] at hlen; exact hlen)
      have hlen' : s.beat + 1 + rest.length = s.curN := by omega
      rw [if_neg hlast]
      obtain ⟨t, hrun, hsame⟩ := ih hnext hp hc hlt hrest (by rw [hsucc]; exact hlen') (by rw [hsucc]; exact hm)
      have hnext' : HeldAlone { s.afterBeat g b xs m' with storage := m } g word (bs ++ [b]) :=
        hnext.withSlots fun _ => rfl
      exact ⟨t, hrun, sameBlock_trans hsame ((hnext'.alike hstored).putDone s.curN)⟩

/-- The edges of a GET's data phase give its bytes as the transaction level reads them in one piece, and end it
(R190). -/
theorem HeldAlone.runEdges_taking {g word n : Nat} (k : Nat) {s : State} {bs out : List Byte}
    (h : HeldAlone s g word bs) (hp : s.phase = .data) (hc : s.curCommand = .command (.get n))
    (hlt : s.curN < 2 ^ s.params.width) (hk : k ≠ 0) (hlen : s.beat + k = s.curN)
    (hm : memRead s.params.width s.params.maxCapacity s.mask s.rc s.storage s.beat k = .ok out) :
    ∃ t, runEdges (List.replicate k (soloInput g taking)) s = .next t ∧
      sameBlock t (getDone g s.curN (bs ++ out) s) := by
  induction k generalizing s bs out with
  | zero => exact absurd rfl hk
  | succ k ih =>
    rw [memRead] at hm
    split at hm
    case h_1 => cases hm
    next b hb =>
    split at hm
    case h_1 => cases hm
    next rest hrest =>
    obtain rfl : b :: rest = out := Except.ok.inj hm
    have hbeat : s.beat < s.curN := by omega
    obtain ⟨xs, hnext, hedge⟩ := h.clkEdge_taking hp hbeat hlt hc hb
    rw [List.replicate_succ, runEdges_cons hedge, List.append_cons bs b rest]
    by_cases hlast : s.beat + 1 = s.curN
    · obtain rfl : k = 0 := by omega
      obtain rfl : [] = rest := Except.ok.inj hrest
      rw [if_pos hlast, List.append_nil]
      have hend : HeldAlone (State.beatDone { s with slots := xs } g b) g word (bs ++ [b]) :=
        hnext.withSlots fun _ => rfl
      exact ⟨_, rfl, (hend.alike h).getDone s.curN _⟩
    · have hsucc := afterBeat_beat hbeat hlt g b xs s.storage
      have hlen' : s.beat + 1 + k = s.curN := by omega
      rw [if_neg hlast]
      obtain ⟨t, hrun, hsame⟩ := ih hnext hp hc hlt (by omega) (by rw [hsucc]; exact hlen')
        (by rw [hsucc]; exact hrest)
      exact ⟨t, hrun, sameBlock_trans hsame ((hnext.alike h).getDone s.curN (bs ++ [b] ++ rest))⟩

end Sys2Proof.Machine
end

section
/-! A lock-taking command over the ports (44_port_protocol.md R187 to R191, R196): grant edge, check edge, and the data
phase where there is one, against the operation at the transaction level. -/

namespace Sys2Proof.Machine

/-! ### From the grant to the check edge -/

/-- Requester `g` has been granted the lock for operation `i`, and the check edge is next (R187). -/
def State.atCheck (s : State) (g : Nat) (i : Instr) (xs : List Slot) : State :=
  { grantEdge g (encode s.params.width i) s with slots := xs, draws := s.draws + 1 }

/-- In READY the lock is free and nobody has anything in flight; `g` is a requester, `i` a lock-taking operation that
fits its word. -/
structure GrantReady (s : State) (g : Nat) (i : Instr) : Prop where
  life : s.life = .ready
  lock : s.lock = .free
  lt : g < s.params.nReq
  idle : ∀ r, s.slot r = .idle
  wellFormed : i.WellFormed s.params.width
  takes : lockTaking s.params.width .ready (encode s.params.width i) = true

section
variable {s : State} {g : Nat} {i : Instr} (h : GrantReady s g i)
include h

theorem GrantReady.curCommand (xs : List Slot) : (s.atCheck g i xs).curCommand = .command i :=
  decode_encode h.wellFormed

/-- The grant edge, then the check edge on the command it has latched (R187, R188). -/
theorem GrantReady.runEdges :
    ∃ xs, HeldAlone (s.atCheck g i xs) g (encode s.params.width i) [] ∧
      ∀ u rest, checkEdge g (s.atCheck g i xs) = .next u →
        Machine.runEdges (soloInput g (presenting (encode s.params.width i)) :: soloInput g ReqIn.rest :: rest) s =
          Machine.runEdges rest (endState (s.atCheck g i xs) u) := by
  have hp := presentsAlone_of_idle (by simp [h.life]) h.lt h.idle (encode_lt h.wellFormed)
  obtain ⟨xs, hslot, hgrant⟩ := hp.clkEdge_granted h.lock (by rw [h.life]; exact h.takes)
  have hheld : HeldAlone (s.atCheck g i xs) g (encode s.params.width i) [] :=
    ⟨h.life, h.lt, rfl, (hslot g).trans (if_pos rfl), fun r hr => (hslot r).trans ((if_neg hr).trans (h.idle r))⟩
  obtain ⟨ys, hslot', hcheck⟩ := hheld.clkEdge (q := ReqIn.rest) rfl
  refine ⟨ys, hheld.withSlots hslot', fun u rest hu => ?_⟩
  have hseq : sequencerEdge (soloInput g ReqIn.rest) g (s.atCheck g i ys) = .next u :=
    (sequencerEdge_of_check rfl).trans hu
  rw [runEdges_cons hgrant]
  exact runEdges_cons (hcheck.trans (congrArg (endEdge _) hseq)) rest

/-- Before the check edge only the lock and the slot of `g` are not as the transaction level takes the lock with. -/
theorem GrantReady.alike {xs : List Slot}
    (hv : HeldAlone (s.atCheck g i xs) g (encode s.params.width i) []) (data : Option (List Byte)) :
    InFlightAlike g (s.atCheck g i xs) ((issuedBy s g (encode s.params.width i) data).acquire g) := by
  refine ⟨rfl, rfl, rfl, fun _ => rfl, rfl, rfl, rfl, rfl, ?_, fun r hr => ?_⟩
  · exact (slotWord_of_executing hv.executing).trans (slotWord_issuedBy s g _ data).symm
  · exact (hv.others r hr).trans ((sameOtherSlots_of_setSlot rfl r hr).trans (h.idle r)).symm

/-- The check edge ends the operation, and leaves the block as the transaction level does without data. -/
def EndsAtCheck (s : State) (g : Nat) (i : Instr) : Prop :=
  ∀ xs, HeldAlone (s.atCheck g i xs) g (encode s.params.width i) [] →
    sameNext (checkEdge g (s.atCheck g i xs)) (exec i (issuedBy s g (encode s.params.width i) none))

theorem GrantReady.overPorts (hd : EndsAtCheck s g i) :
    sameNext (Machine.runEdges [soloInput g (presenting (encode s.params.width i)), soloInput g ReqIn.rest] s)
      (exec i (issuedBy s g (encode s.params.width i) none)) := by
  obtain ⟨xs, hheld, hrun⟩ := h.runEdges
  obtain ⟨u, v, hu, hv, hsame⟩ := hd xs hheld
  exact ⟨_, v, hrun u [] hu, hv, hsame⟩

end

/-! ### The check edge -/

theorem clampGet_zero (s : State) : s.clampGet 0 = 0 := Nat.zero_min _

theorem checkEdge_reset {s : State} (hc : s.curCommand = .command .reset) (g : Nat) :
    checkEdge g s = .next (resetDone g s) := by
  rw [checkEdge, hc]

theorem checkEdge_len {s : State} (hc : s.curCommand = .command .len) (g : Nat) :
    checkEdge g s = .next (lenDone g s) := by
  rw [checkEdge, hc]

theorem checkEdge_put_noSpace {s : State} {n : Nat} (hc : s.curCommand = .command (.put n))
    (hn : s.noSpace n = true) (g : Nat) : checkEdge g s = .next (putRejected g (s.latchN n)) := by
  rw [checkEdge, hc]
  exact if_pos hn

theorem checkEdge_put_zero {s : State} (hc : s.curCommand = .command (.put 0)) (g : Nat) :
    checkEdge g s = .next (putDone g 0 (s.latchN 0)) := by
  have hfits := (noSpace_eq_false_iff s 0).2 (Nat.zero_le _)
  rw [checkEdge, hc]
  exact if_neg (Bool.eq_false_iff.1 hfits)

theorem checkEdge_put_begins {s : State} {n : Nat} (hc : s.curCommand = .command (.put n)) (hn : n ≤ s.avail)
    (h0 : n ≠ 0) (g : Nat) : checkEdge g s = .next (s.latchN n).beginData := by
  have hfits := (noSpace_eq_false_iff s n).2 hn
  rw [checkEdge, hc]
  exact (if_neg (Bool.eq_false_iff.1 hfits)).trans (if_neg h0)

theorem checkEdge_get_empty {s : State} {n : Nat} (hc : s.curCommand = .command (.get n)) (he : s.empty = true)
    (g : Nat) : checkEdge g s = .next (getRejected g n (s.latchN (s.clampGet n))) := by
  rw [checkEdge, hc]
  exact if_pos he

theorem checkEdge_get_zero {s : State} (hc : s.curCommand = .command (.get 0)) (he : s.empty = false) (g : Nat) :
    checkEdge g s = .next (getDone g 0 [] (s.latchN 0)) := by
  rw [checkEdge, hc]
  simp only [clampGet_zero]
  exact if_neg (Bool.eq_false_iff.1 he)

theorem checkEdge_get_begins {s : State} {n : Nat} (hc : s.curCommand = .command (.get n)) (he : s.empty = false)
    (h0 : s.clampGet n ≠ 0) (g : Nat) : checkEdge g s = .next (s.latchN (s.clampGet n)).beginData := by
  rw [checkEdge, hc]
  exact (if_neg (Bool.eq_false_iff.1 he)).trans (if_neg h0)

/-! ### Commands without a data phase -/

/-- A PUT of no bytes, in READY with the lock free, needs no data (R140, R144). -/
theorem exec_put_zero {s : State} (hl : s.life = .ready) (hf : s.lock = .free) :
    exec (.put 0) s = .next (putDone s.turn 0 (s.acquire s.turn)) := by
  have henough : s.shortData 0 = false := shortData_eq_false fun _ _ _ => Nat.zero_le _
  have hfits : (s.acquire s.turn).noSpace 0 = false := (noSpace_eq_false_iff _ 0).2 (Nat.zero_le _)
  rw [exec, execPut_of_enough (by simp [hl]) henough, underLock_of_free hl hf, putBody, hfits,
    if_neg Bool.false_ne_true, if_neg (Nat.not_lt_zero _), clampPut_eq hfits, List.take_zero, memWrite]
  rfl

/-- A GET on an empty buffer, in READY with the lock free (R151). -/
theorem exec_get_of_empty {s : State} {req : Nat} (hl : s.life = .ready) (hf : s.lock = .free)
    (he : s.empty = true) : exec (.get req) s = .next (s.answer s.turn .bufferEmpty req []) := by
  have hbody : getBody req (s.acquire s.turn) = .next (getRejected s.turn req (s.acquire s.turn)) := if_pos he
  rw [exec, execGet, underLock_of_free hl hf, hbody, getRejected, releaseLock_answer_acquire hf]

section
variable {s : State} {g : Nat}

theorem GrantReady.reset (h : GrantReady s g .reset) : EndsAtCheck s g .reset := fun xs hv =>
  ⟨_, _, checkEdge_reset (h.curCommand xs) g, exec_reset_of_free h.life h.lock, (h.alike hv none).resetDone⟩

theorem GrantReady.len (h : GrantReady s g .len) : EndsAtCheck s g .len := fun xs hv =>
  ⟨_, _, checkEdge_len (h.curCommand xs) g, exec_len_of_free h.life h.lock, (h.alike hv none).answered h.lock ..⟩

theorem GrantReady.put_noSpace {n : Nat} (h : GrantReady s g (.put n)) (hn : s.noSpace n = true) :
    EndsAtCheck s g (.put n) := by
  intro xs hv
  have henough : (issuedBy s g (encode s.params.width (.put n)) none).shortData n = false := by
    rw [State.shortData, operandData_of_issued (slot_of_setSlot rfl)]
  exact ⟨_, _, checkEdge_put_noSpace (h.curCommand xs) hn g, exec_put_of_noSpace h.life h.lock henough hn,
    ((h.alike hv none).latchN _).answered h.lock ..⟩

theorem GrantReady.put_zero (h : GrantReady s g (.put 0)) : EndsAtCheck s g (.put 0) := by
  intro xs hv
  exact ⟨_, _, checkEdge_put_zero (h.curCommand xs) g, exec_put_zero h.life h.lock,
    ((h.alike hv none).latchN 0).putDone 0⟩

theorem GrantReady.get_empty {n : Nat} (h : GrantReady s g (.get n)) (he : s.empty = true) :
    EndsAtCheck s g (.get n) := by
  intro xs hv
  exact ⟨_, _, checkEdge_get_empty (h.curCommand xs) he g, exec_get_of_empty h.life h.lock he,
    ((h.alike hv none).latchN _).answered h.lock ..⟩

theorem GrantReady.get_zero (h : GrantReady s g (.get 0)) (he : s.empty = false) : EndsAtCheck s g (.get 0) := by
  intro xs hv
  have hexec := exec_get_of_read (s := issuedBy s g (encode s.params.width (.get 0)) none) (req := 0) (out := [])
    h.life h.lock he (by rw [clampGet_zero, memRead])
  rw [clampGet_zero] at hexec
  exact ⟨_, _, checkEdge_get_zero (h.curCommand xs) he g, hexec, ((h.alike hv none).latchN 0).getDone 0 []⟩

end

/-- Settles O45: each of these commands is ended by its check edge. -/
theorem shortCommandOverPorts : Obligations.ShortCommandOverPorts := by
  intro s g i hl hf hg hidle hwf hi
  have hready (ht : lockTaking s.params.width .ready (encode s.params.width i) = true) : GrantReady s g i :=
    ⟨hl, hf, hg, hidle, hwf, ht⟩
  have hd := decode_encode hwf
  rw [lockTaking, hd] at hready
  rcases hi with rfl | rfl | ⟨n, rfl, hn⟩ | ⟨n, rfl, hn⟩
  · exact (hready rfl).overPorts (hready rfl).reset
  · exact (hready rfl).overPorts (hready rfl).len
  · cases hs : s.noSpace n with
    | true => exact (hready rfl).overPorts ((hready rfl).put_noSpace hs)
    | false =>
      have hfits := (noSpace_eq_false_iff s n).1 hs
      obtain rfl : n = 0 := by omega
      exact (hready rfl).overPorts (hready rfl).put_zero
  · cases he : s.empty with
    | true => exact (hready rfl).overPorts ((hready rfl).get_empty he)
    | false =>
      have hne : s.wc ≠ s.rc := fun e => Bool.false_ne_true (he.symm.trans ((empty_iff s).2 e))
      obtain rfl : n = 0 := by omega
      exact (hready rfl).overPorts ((hready rfl).get_zero he)

/-! ### PUT and GET with a data phase -/

/-- The state in which the edge ends that latches `n` and begins the data phase (R188). -/
def State.dataBegun (s : State) (n : Nat) : State := endState s (s.latchN n).beginData

theorem HeldAlone.dataBegun {s : State} {g word : Nat} {bs : List Byte} (h : HeldAlone s g word bs) (n : Nat) :
    HeldAlone (s.dataBegun n) g word bs := h.withSlots fun _ => rfl

theorem InFlightAlike.dataBegun {g : Nat} {t s : State} (h : InFlightAlike g t s) (n : Nat) :
    InFlightAlike g (t.dataBegun n) s :=
  ⟨h.wc, h.rc, h.cap, h.bytes, h.life, h.fatal, h.async, h.params, h.word, h.others⟩

/-- Settles O46: the check edge begins the data phase, whose beats store what the transaction level stores. -/
theorem putOverPorts : Obligations.PutOverPorts := by
  intro s g n data hinv hl hf hg hidle hn hav hlen
  have hlt : n < 2 ^ s.params.width := Nat.lt_of_le_of_lt hav (wsub_lt _ _ _)
  have hwf : (Instr.put n).WellFormed s.params.width := hlt
  have h : GrantReady s g (.put n) := ⟨hl, hf, hg, hidle, hwf, by rw [lockTaking, decode_encode hwf]; rfl⟩
  obtain ⟨xs, hheld, hrun⟩ := h.runEdges
  have hcheck := checkEdge_put_begins (h.curCommand xs) hav hn g
  obtain ⟨m, hm⟩ := memWrite_isOk data 0 s.storage (hinv.buffer.cellIndex_lt hl s.wc)
  obtain ⟨t, ht, hsame⟩ := (hheld.dataBegun n).runEdges_offering data rfl (h.curCommand xs) hlt
    (by rintro rfl; exact hn hlen.symm) ((Nat.zero_add _).trans hlen) hm
  have hexec := exec_put_of_fits (s := issuedBy s g (encode s.params.width (.put n)) (some data)) (m := m) hl hf
    (slot_of_setSlot rfl) (Nat.le_of_eq hlen.symm) hav (by rw [List.take_of_length_le (Nat.le_of_eq hlen)]; exact hm)
  exact ⟨t, _, (hrun _ _ hcheck).trans ht, hexec,
    sameBlock_trans hsame ((((h.alike hheld (some data)).dataBegun n).stored m).putDone n)⟩

/-- Settles O47: the check edge begins the data phase, whose beats give what the transaction level reads. -/
theorem getOverPorts : Obligations.GetOverPorts := by
  intro s g req hinv hl hf hg hidle hne hreq hwf
  have h : GrantReady s g (.get req) := ⟨hl, hf, hg, hidle, hwf, by rw [lockTaking, decode_encode hwf]; rfl⟩
  obtain ⟨hwc, hrc, _⟩ := hinv.width
  have he : s.empty = false := Bool.eq_false_iff.2 (mt (empty_iff s).1 hne)
  have hle : s.clampGet req ≤ s.occ := Nat.min_le_right req s.occ
  have hclamp : s.clampGet req ≠ 0 := by
    have hocc : s.occ ≠ 0 := mt (occ_eq_zero hwc hrc).1 hne
    rw [State.clampGet]
    omega
  obtain ⟨xs, hheld, hrun⟩ := h.runEdges
  have hcheck := checkEdge_get_begins (h.curCommand xs) he hclamp g
  obtain ⟨out, hout⟩ := memRead_isOk (m := s.storage) (i := 0) (n := s.clampGet req)
    (hinv.buffer.cellIndex_lt hl s.rc) fun j hj => by
      rw [Nat.zero_add]
      exact hinv.occupied hl j (Nat.lt_of_lt_of_le hj hle)
  obtain ⟨t, ht, hsame⟩ := (hheld.dataBegun (s.clampGet req)).runEdges_taking (s.clampGet req) rfl (h.curCommand xs)
    (Nat.lt_of_le_of_lt hle (wsub_lt _ _ _)) hclamp (Nat.zero_add _) hout
  have hexec := exec_get_of_read (s := issuedBy s g (encode s.params.width (.get req)) none) hl hf he hout
  exact ⟨t, _, (hrun _ _ hcheck).trans ht, hexec,
    sameBlock_trans hsame (((h.alike hheld none).dataBegun _).getDone (s.clampGet req) out)⟩

end Sys2Proof.Machine
end

section
/-! Gray code (45_async_option.md R211, R212): encoding and decoding bit by bit, that each undoes the other, and that the
codes of neighbours differ in one bit, so that a capture around a unit step is one of the two (R214). -/

namespace Sys2Proof.Machine

/-! ### Encoding -/

theorem testBit_gray (b i : Nat) : (gray b).testBit i = (b.testBit i ^^ b.testBit (i + 1)) := by
  rw [gray, Nat.testBit_xor, Nat.testBit_shiftRight, Nat.add_comm]

theorem gray_lt {w b : Nat} (h : b < 2 ^ w) : gray b < 2 ^ w :=
  Nat.xor_lt_two_pow h (Nat.lt_of_le_of_lt (Nat.shiftRight_le b 1) h)

theorem testBit_gray_top {w b : Nat} (h : b < 2 ^ w) (hw : 0 < w) : (gray b).testBit (w - 1) = b.testBit (w - 1) := by
  rw [testBit_gray, Nat.sub_add_cancel hw, Nat.testBit_lt_two_pow h, Bool.xor_false]

/-- Encoding is linear: the difference of two codes is the code of the difference. -/
theorem gray_xor (b c : Nat) : gray b ^^^ gray c = gray (b ^^^ c) := by
  simp only [gray, Nat.shiftRight_xor_distrib]
  ac_rfl

/-- The code of `k + 1` ones is the bit `k` alone. -/
theorem gray_ones (k : Nat) : gray (2 ^ (k + 1) - 1) = 2 ^ k := by
  refine Nat.eq_of_testBit_eq fun i => ?_
  rw [testBit_gray, Nat.testBit_two_pow_sub_one, Nat.testBit_two_pow_sub_one, Nat.testBit_two_pow]
  by_cases hik : k = i
  · simp [hik]
  · have : i < k + 1 ↔ i + 1 < k + 1 := by omega
    simp [hik, this]

/-! ### Decoding -/

theorem ungray_succ (w g : Nat) : ungray (w + 1) g = ungray w g ^^^ (g >>> w) := by
  rw [ungray, List.range_succ, List.foldl_append, ← ungray]
  rfl

theorem ungray_lt {n g : Nat} (h : g < 2 ^ n) (w : Nat) : ungray w g < 2 ^ n := by
  induction w with
  | zero => exact Nat.two_pow_pos n
  | succ w ih =>
    rw [ungray_succ]
    exact Nat.xor_lt_two_pow ih (Nat.lt_of_le_of_lt (Nat.shiftRight_le g w) h)

/-- The shifts of encoding and decoding telescope: the number and its shift by `w` are left, and for a number of `w`
bits that shift is 0. -/
theorem gray_ungray_eq_xor (w g : Nat) : gray (ungray w g) = g ^^^ (g >>> w) := by
  induction w with
  | zero => rw [Nat.shiftRight_zero, Nat.xor_self]; exact gray_zero
  | succ w ih =>
    rw [ungray_succ, ← gray_xor, ih, gray, ← Nat.shiftRight_add, Nat.xor_assoc, Nat.xor_xor_cancel_left]

theorem ungray_gray_eq_xor (w b : Nat) : ungray w (gray b) = b ^^^ (b >>> w) := by
  induction w with
  | zero => rw [Nat.shiftRight_zero, Nat.xor_self]; rfl
  | succ w ih =>
    rw [ungray_succ, ih, gray, Nat.shiftRight_xor_distrib, ← Nat.shiftRight_add, Nat.add_comm 1 w, Nat.xor_assoc,
      Nat.xor_xor_cancel_left]

theorem gray_ungray {w g : Nat} (h : g < 2 ^ w) : gray (ungray w g) = g := by
  rw [gray_ungray_eq_xor, Nat.shiftRight_eq_zero g w h, Nat.xor_zero]

theorem ungray_gray {w b : Nat} (h : b < 2 ^ w) : ungray w (gray b) = b := by
  rw [ungray_gray_eq_xor, Nat.shiftRight_eq_zero b w h, Nat.xor_zero]

/-- Settles O55: decoding inverts encoding on `W` bits, so each bit of `g` is that of the code of its decoding. -/
theorem ungrayOfGray : Obligations.UngrayOfGray := by
  refine fun W hW => ⟨fun g hg => ?_, fun b hb => ungray_gray hb⟩
  have hlt := ungray_lt hg W
  refine ⟨hlt, ?_, fun i _ => ?_⟩
  · rw [← testBit_gray_top hlt hW, gray_ungray hg]
  · have hbit := testBit_gray (ungray W g) i
    rw [gray_ungray hg] at hbit
    rw [hbit, Bool.xor_assoc, Bool.xor_self, Bool.xor_false]

/-! ### A unit step -/

/-- Adding 1 flips a block of low bits: the trailing ones and the zero above them. -/
theorem exists_xor_succ (b : Nat) : ∃ k, b ^^^ (b + 1) = 2 ^ (k + 1) - 1 := by
  induction b using Nat.binaryRec with
  | zero => exact ⟨0, rfl⟩
  | bit a n ih =>
    cases a with
    | false =>
      refine ⟨0, ?_⟩
      have hsucc : Nat.bit false n + 1 = Nat.bit true n := rfl
      rw [hsucc, Nat.xor_bit, Nat.xor_self]
      rfl
    | true =>
      obtain ⟨k, hk⟩ := ih
      refine ⟨k + 1, ?_⟩
      have hsucc : Nat.bit true n + 1 = Nat.bit false (n + 1) := by simp [Nat.bit_val]; omega
      have hpos := Nat.two_pow_pos k
      rw [hsucc, Nat.xor_bit, hk, Nat.bit_val]
      change 2 * (2 ^ (k + 1) - 1) + 1 = 2 ^ (k + 1 + 1) - 1
      omega

/-- The same modulo `2^w`, where the wrap flips all `w` bits. -/
theorem exists_xor_wadd_one {w b : Nat} (hw : 0 < w) (h : b < 2 ^ w) :
    ∃ k, k < w ∧ b ^^^ wadd w b 1 = 2 ^ (k + 1) - 1 := by
  by_cases hb : b + 1 < 2 ^ w
  · obtain ⟨k, hk⟩ := exists_xor_succ b
    refine ⟨k, ?_, by rw [wadd, Nat.mod_eq_of_lt hb, hk]⟩
    have hlt : 2 ^ (k + 1) - 1 < 2 ^ w := hk ▸ Nat.xor_lt_two_pow h hb
    have hpow : 2 ^ k < 2 ^ w := by omega
    exact (Nat.pow_lt_pow_iff_right Nat.one_lt_two).1 hpow
  · obtain rfl : b = 2 ^ w - 1 := by omega
    refine ⟨w - 1, by omega, ?_⟩
    rw [wadd, Nat.sub_add_cancel (Nat.two_pow_pos w), Nat.mod_self, Nat.xor_zero, Nat.sub_add_cancel hw]

theorem exists_gray_xor_wadd_one {w b : Nat} (hw : 0 < w) (h : b < 2 ^ w) :
    ∃ k, k < w ∧ gray b ^^^ gray (wadd w b 1) = 2 ^ k := by
  obtain ⟨k, hk, e⟩ := exists_xor_wadd_one hw h
  exact ⟨k, hk, by rw [gray_xor, e, gray_ones]⟩

/-- Settles O56: encoding is linear, and a unit step flips a block of low bits, whose code is one bit. -/
theorem grayUnitStep : Obligations.GrayUnitStep := fun _ b hW hb =>
  ⟨gray_lt hb, testBit_gray_top hb hW, fun i _ => testBit_gray b i, exists_gray_xor_wadd_one hW hb⟩

/-- Where only one bit changes, a capture is the old value or the new one (R214). -/
theorem captured_of_xor_eq_two_pow {old new k : Nat} (h : old ^^^ new = 2 ^ k) (free : Nat) :
    captured free old new = old ∨ captured free old new = new := by
  rw [captured, h, Nat.and_two_pow]
  cases free.testBit k with
  | false => exact .inr (by simp)
  | true =>
    refine .inl ?_
    rw [Bool.toNat_true, Nat.one_mul, ← h, Nat.xor_comm old, Nat.xor_xor_cancel_left]

/-- Settles O57: the two codes differ in one bit. -/
theorem captureOfUnitStep : Obligations.CaptureOfUnitStep := by
  intro W b free hW hb
  obtain ⟨k, _, hk⟩ := exists_gray_xor_wadd_one hW hb
  exact captured_of_xor_eq_two_pow hk free

end Sys2Proof.Machine
end

section
/-! The registers of the gray-code option through a step (45_async_option.md R213, R214, R216): a move leaves cursors and
registers alone or commits both together, and only an edge of `oclk` moves the chains. -/

namespace Sys2Proof.Machine

/-! ### What commits -/

/-- The registers of the option have followed the cursors: both are as before, or both have made one commit (R213). -/
def optionFollows (t s : State) : Prop :=
  t.params = s.params ∧
  ((t.wc = s.wc ∧ t.rc = s.rc ∧ t.async = s.async) ∨
    ∃ capChanged unit, t.async = exported s.params s.async s.wc s.rc t.wc t.rc capChanged unit)

theorem optionFollows_getDone (s : State) (r n : Nat) (out : List Byte) : optionFollows (getDone r n out s) s := by
  obtain ⟨wc', rc', unit, e⟩ := advanceRc_eq_commitCursors s n
  rw [getDone, e]
  exact ⟨rfl, .inr ⟨false, unit, rfl⟩⟩

theorem ExecResult.optionFollows {s t : State} {i : Instr} (h : ExecResult s i t) : optionFollows t s := by
  cases h with
  | waits | answers | answersLocked | fatal | releases => exact ⟨rfl, .inl ⟨rfl, rfl, rfl⟩⟩
  | inits | resets | puts => exact ⟨rfl, .inr ⟨_, _, rfl⟩⟩
  | gets => exact optionFollows_getDone _ _ _ _

theorem serve_optionFollows {s t : State} (h : serve s = .next t) : optionFollows t s := by
  rcases serve_next h with rfl | ⟨_, _, _, hr⟩
  · exact ⟨rfl, .inl ⟨rfl, rfl, rfl⟩⟩
  · exact hr.optionFollows

theorem SequencerResult.optionFollows {inp : PortIn} {g : Nat} {s t : State} (h : SequencerResult inp g s t) :
    optionFollows t s := by
  cases h with
  | idles | lens | putRejects | putBegins | getRejects | getBegins | putTakes | getGives =>
    exact ⟨rfl, .inl ⟨rfl, rfl, rfl⟩⟩
  | resets | putZero | putCompletes => exact ⟨rfl, .inr ⟨_, _, rfl⟩⟩
  | getZero | getCompletes => exact optionFollows_getDone _ _ _ _

/-! ### One chain -/

/-- With no edge of `oclk` since the last change a chain may hold anything. -/
theorem chainInv_zero {stages g old : Nat} {chain : List Nat} (h : chain.length = stages) :
    chainInv stages 0 g old chain :=
  ⟨h, fun h => absurd h (by omega), fun _ h => absurd h (by omega)⟩

/-- An edge of `oclk` takes the chain one edge further from the last change: what it captures at the second edge and
later is the gray register itself (R214). -/
theorem chainInv.clocked {stages since g old : Nat} {chain : List Nat} (h : chainInv stages since g old chain)
    (free : Nat) : chainInv stages (since + 1) g g (shiftIn (captured free old g) chain) := by
  obtain ⟨hlen, hold, hchain⟩ := h
  refine ⟨(length_shiftIn _ _).trans hlen, fun _ => rfl, fun i hi hlt => ?_⟩
  rw [length_shiftIn] at hlt
  rw [getElem?_shiftIn _ _ hlt]
  cases i with
  | zero => rw [hold (by omega), captured_same, if_pos rfl]
  | succ i => exact hchain i (by omega) (by omega)

/-! ### Both invariants together -/

/-- The gray registers and the chains of the option are as R213 and R214 have them. -/
def optionInv (s : State) : Prop := grayInv s ∧ syncInv s

/-- A commit that changes a cursor or the capacity starts the window anew; one that changes nothing leaves the gray
registers as they are too, since they are the codes of the cursors. -/
theorem optionInv.follows {s t : State} (h : optionInv s) (ht : optionFollows t s) : optionInv t := by
  obtain ⟨hgray, hsync⟩ := h
  obtain ⟨hp, ⟨hwc, hrc, ha⟩ | ⟨c, u, ha⟩⟩ := ht
  · rw [optionInv, grayInv, syncInv, hp, hwc, hrc, ha]
    exact ⟨hgray, hsync⟩
  rw [optionInv, grayInv, syncInv, hp, ha, ← forall_and]
  intro hon
  obtain ⟨hw, hr⟩ := hsync hon
  obtain ⟨hgw, hgr⟩ := hgray hon
  rw [exported, if_pos hon]
  refine ⟨⟨rfl, rfl⟩, ?_⟩
  rcases follow_window s.async s.wc s.rc t.wc t.rc c u with ⟨hwc, hrc, _, hsince, _, hwold, hrold⟩ | ⟨_, hsince⟩
  · rw [hsince, hwold, hrold, follow_wcG, follow_rcG, hwc, hrc, ← hgw, ← hgr]
    exact ⟨hw, hr⟩
  · rw [hsince]
    exact ⟨chainInv_zero hw.1, chainInv_zero hr.1⟩

theorem optionInv.clocked {s : State} (h : optionInv s) (orst : Bool) (f g : Nat) :
    optionInv { s with async := s.async.clocked orst f g } := by
  refine ⟨fun hon => ?_, fun hon => ?_⟩
  · exact ⟨(clocked_wcG ..).trans (h.1 hon).1, (clocked_rcG ..).trans (h.1 hon).2⟩
  obtain ⟨hw, hr⟩ := h.2 hon
  cases orst with
  | true => exact ⟨chainInv_zero ((List.length_map _).trans hw.1), chainInv_zero ((List.length_map _).trans hr.1)⟩
  | false => exact ⟨hw.clocked f, hr.clocked g⟩

/-- Settles O58: the smallest moves of a step follow the cursors, but for the edge of `oclk`. -/
theorem stepKeepsGrayAndChains : Obligations.StepKeepsGrayAndChains := by
  intro s t hgray hsync h
  exact step_keeps (P := optionInv)
    (hserve := fun _ _ hu hv => hu.follows (serve_optionFollows hv))
    (hslots := fun _ _ hu => hu)
    (hturn := fun _ _ hu => hu)
    (hscript := fun _ _ hu => hu)
    (hdraws := fun _ _ hu => hu)
    (hseen := fun _ _ hu => hu)
    (hseq := fun _ _ _ _ hu hv => hu.follows hv.optionFollows)
    (hgrant := fun _ _ _ hu => hu)
    (hreset := fun _ hu => hu.follows ⟨rfl, .inr ⟨_, _, rfl⟩⟩)
    (hoclk := fun _ orst f g hu _ => hu.clocked orst f g)
    ⟨hgray, hsync⟩ h

end Sys2Proof.Machine
end

section
/-! The second clock domain (45_async_option.md R214 to R219): what settled chains show, and what an edge of `oclk` and
the remote observer's read leave of the block. -/

namespace Sys2Proof.Machine

/-! ### Settled flags -/

/-- Once every flip-flop has had time to take it, the last stage of a chain holds the gray register (R214, R216 a). -/
theorem chainInv.lastStage_eq {stages since g old : Nat} {chain : List Nat} (h : chainInv stages since g old chain)
    (hs : 1 ≤ stages) (hsince : stages + 1 ≤ since) : lastStage chain = g := by
  obtain ⟨hlen, _, hchain⟩ := h
  have hlast : chain[chain.length - 1]? = some g := hchain _ (by omega) (by omega)
  rw [lastStage, List.getLastD_eq_getLast?, List.getLast?_eq_getElem?, hlast, Option.getD_some]

section
variable {s : State} (hon : s.params.asyncFlags = true) (hst : 1 ≤ s.params.syncStages) (hw : widthInv s)
  (hgray : grayInv s) (hsync : syncInv s) (hset : s.settled = true)
include hon hst hw hgray hsync hset

/-- In the settled case the synchronised copies are the cursors (R214, R216 a). -/
theorem settled_copies :
    s.async.wcO s.params.width = s.wc ∧ s.async.rcO s.params.width = s.rc := by
  obtain ⟨hwc, hrc, _⟩ := hw
  obtain ⟨hgw, hgr⟩ := hgray hon
  obtain ⟨hcw, hcr⟩ := hsync hon
  have hsince : s.params.syncStages + 1 ≤ s.async.sinceChange := of_decide_eq_true hset
  rw [AsyncRegs.wcO, AsyncRegs.rcO, hcw.lastStage_eq hst hsince, hcr.lastStage_eq hst hsince, hgw, hgr]
  exact ⟨ungray_gray hwc, ungray_gray hrc⟩

theorem settled_flags (hl : s.life = .ready) : emptyO s = s.empty ∧ fullO s = s.full := by
  obtain ⟨hwc, hrc⟩ := settled_copies hon hst hw hgray hsync hset
  have hgate : (decide (s.life = .ready) && (s.settled || s.unitWindow)) = true := by rw [hl, hset]; rfl
  rw [emptyO, fullO, if_pos hgate, if_pos hgate, State.syncedEmpty, State.syncedFull, hwc, hrc]
  exact ⟨rfl, rfl⟩

end

/-! ### The two events -/

theorem step_observe {s : State} {rest : List Event} (h : s.script = .observe :: rest) (hl : s.life ≠ .fatal)
    (hon : s.params.asyncFlags = true) :
    step s = .next { s with script := rest, remoteSeen := some (emptyO s, fullO s), draws := s.draws + 1 } :=
  (step_cons h).trans ((unlessFatal_of_ne (s := { s with script := rest }) hl _).trans (if_pos hon))

theorem step_oedge {s : State} {orst : Bool} {rest : List Event} (h : s.script = .oedge orst :: rest)
    (hl : s.life ≠ .fatal) (hon : s.params.asyncFlags = true) :
    step s = .next { s with
      script := rest
      async := s.async.clocked orst (Config.freeMask s.draws 0) (Config.freeMask s.draws 1)
      draws := s.draws + 1 } :=
  (step_cons h).trans ((unlessFatal_of_ne (s := { s with script := rest }) hl _).trans (if_pos hon))

/-- Each captured bit is the new one or the old one (R214). -/
theorem captured_bit (free old new i : Nat) :
    (captured free old new).testBit i = new.testBit i ∨ (captured free old new).testBit i = old.testBit i := by
  rw [testBit_captured]
  cases free.testBit i with
  | false => exact .inl rfl
  | true => exact .inr rfl

/-- Settles O59: settled chains end in the codes of the cursors; an edge of `oclk` writes the option's registers only. -/
theorem settledRemoteFlags : Obligations.SettledRemoteFlags := by
  refine ⟨fun s hon hst hw hgray hsync hl hset => ?_, fun s orst rest hon hl hscript => ?_⟩
  · obtain ⟨hempty, hfull⟩ := settled_flags hon hst hw hgray hsync hset hl
    refine ⟨hempty, hfull, fun rest hscript => ⟨_, step_observe hscript (by simp [hl]) hon, ?_, ?_⟩⟩
    · rw [hempty, hfull]
    · exact ⟨⟨rfl, rfl, rfl, rfl⟩, ⟨rfl, rfl, rfl⟩, rfl, rfl, ⟨rfl, rfl, rfl, rfl, rfl⟩⟩
  · refine ⟨_, captured (Config.freeMask s.draws 0) s.async.wcGOld s.async.wcG,
      captured (Config.freeMask s.draws 1) s.async.rcGOld s.async.rcG, step_oedge hscript hl hon, rfl, rfl, rfl,
      ⟨rfl, rfl, rfl⟩, rfl, rfl, ⟨rfl, rfl, rfl, rfl, rfl⟩, clocked_wcG .., clocked_rcG .., ?_, ?_⟩
    · rintro rfl
      exact ⟨List.map_const' .., List.map_const' ..⟩
    · rintro rfl
      exact ⟨rfl, rfl, captured_bit _ _ _, captured_bit _ _ _⟩

end Sys2Proof.Machine
end

section
/-! Operations are blind to the option (45_async_option.md R210, R218): no gate, check or ending of an operation reads
whether it is built or what its registers hold. -/

namespace Sys2Proof.Machine

/-- `s` with the option built or not, and its registers at `a`. -/
def State.withOption (s : State) (on : Bool) (a : AsyncRegs) : State :=
  { s with params := { s.params with asyncFlags := on }, async := a }

/-- The next state `body` answers does not depend on the option or its registers, but for the option's own fields. -/
def optionBlind (body : State → Out) : Prop :=
  ∀ (s t : State) (on : Bool) (a : AsyncRegs), body s = .next t →
    ∃ b, body (s.withOption on a) = .next (t.withOption on b)

/-- What the update `f` does outside the option does not depend on the option or its registers. -/
def updateBlind (f : State → State) : Prop :=
  ∀ (s : State) (on : Bool) (a : AsyncRegs), ∃ b, f (s.withOption on a) = (f s).withOption on b

/-! ### Endings -/

theorem updateBlind_of_keeps {f : State → State} (h : ∀ s on a, f (s.withOption on a) = (f s).withOption on a) :
    updateBlind f := fun s on a => ⟨a, h s on a⟩

theorem updateBlind.comp {f g : State → State} (hg : updateBlind g) (hf : updateBlind f) :
    updateBlind fun s => g (f s) := by
  intro s on a
  obtain ⟨b, e⟩ := hf s on a
  obtain ⟨c, e'⟩ := hg (f s) on b
  exact ⟨c, (congrArg g e).trans e'⟩

theorem updateBlind_advanceRc (n : Nat) : updateBlind fun s => s.advanceRc n := by
  intro s on a
  rcases advanceRc_cases s n with ⟨hall, e⟩ | ⟨hsome, e⟩
  · exact ⟨_, (if_pos hall).trans (congrArg (State.withOption · on _) e).symm⟩
  · exact ⟨_, (if_neg hsome).trans (congrArg (State.withOption · on _) e).symm⟩

theorem updateBlind_getDone (r n : Nat) (out : List Byte) : updateBlind (getDone r n out) :=
  (updateBlind_of_keeps fun _ _ _ => rfl).comp (g := fun s => (s.answer r .ok n out).releaseLock)
    (updateBlind_advanceRc n)

theorem optionBlind_next {f : State → State} (h : updateBlind f) : optionBlind fun s => .next (f s) := by
  intro s t on a e
  injection e with e
  obtain ⟨b, hb⟩ := h s on a
  exact ⟨b, congrArg Host.Outcome.next (hb.trans (congrArg (State.withOption · on b) e))⟩

theorem optionBlind_ite {p : State → Prop} [DecidablePred p] {x y : State → Out}
    (hp : ∀ s on a, p (s.withOption on a) ↔ p s) (hx : optionBlind x) (hy : optionBlind y) :
    optionBlind fun s => if p s then x s else y s := by
  intro s t on a e
  by_cases h : p s
  · obtain ⟨b, hb⟩ := hx s t on a ((if_pos h).symm.trans e)
    exact ⟨b, (if_pos ((hp s on a).2 h)).trans hb⟩
  · obtain ⟨b, hb⟩ := hy s t on a ((if_neg h).symm.trans e)
    exact ⟨b, (if_neg (mt (hp s on a).1 h)).trans hb⟩

theorem optionBlind_fault (f : Fault) : optionBlind fun _ => .fault f := fun _ _ _ _ h => nomatch h
theorem optionBlind_refused (r : Refusal) : optionBlind fun _ => .refused r := fun _ _ _ _ h => nomatch h

theorem optionBlind_answer (st : Status) (v : Nat) : optionBlind fun s => .next (s.answer s.turn st v []) :=
  optionBlind_next (updateBlind_of_keeps fun _ _ _ => rfl)

/-! ### Gates -/

theorem optionBlind_unlessFatal {body : State → Out} (h : optionBlind body) : optionBlind (unlessFatal body) :=
  optionBlind_ite (fun _ _ _ => Iff.rfl) (optionBlind_fault _) h

theorem optionBlind_whenReady {body : State → Out} (h : optionBlind body) (v : Nat) :
    optionBlind (whenReady v body) := by
  intro s t on a e
  rcases whenReady_cases v body s with ⟨_, e'⟩ | ⟨hl, e'⟩ | ⟨hl, e'⟩ <;> rw [e'] at e
  · cases e
  · rw [whenReady_of_ready (s := s.withOption on a) hl]
    exact h s t on a e
  · rw [whenReady_of_outside (s := s.withOption on a) hl]
    exact optionBlind_answer .badState v s t on a e

theorem optionBlind_underLock {body : State → Out} (h : optionBlind body) (v : Nat) :
    optionBlind (underLock v body) := by
  refine optionBlind_whenReady (fun s t on a e => ?_) v
  cases hf : s.lock with
  | free =>
    rw [hf] at e
    have hfo : (s.withOption on a).lock = .free := hf
    rw [hfo]
    exact h (s.acquire s.turn) t on a e
  | held g =>
    rw [hf] at e
    have hfo : (s.withOption on a).lock = .held g := hf
    rw [hfo]
    injection e with e
    exact ⟨a, by rw [e]⟩

/-! ### The operations -/

theorem optionBlind_initBody (c : Nat) : optionBlind (initBody c) :=
  optionBlind_ite (fun _ _ _ => Iff.rfl) (optionBlind_fault _) <|
  optionBlind_ite (fun _ _ _ => Iff.rfl) (optionBlind_answer _ _) <|
  optionBlind_ite (fun _ _ _ => Iff.rfl) (optionBlind_next (updateBlind_of_keeps fun _ _ _ => rfl)) <|
  optionBlind_ite (fun _ _ _ => Iff.rfl) (optionBlind_answer _ _) <|
  optionBlind_next fun _ _ _ => ⟨_, rfl⟩

theorem optionBlind_execRelease : optionBlind execRelease :=
  optionBlind_unlessFatal <| optionBlind_ite (fun _ _ _ => Iff.rfl) (optionBlind_fault _) <|
    optionBlind_whenReady (optionBlind_next (updateBlind_of_keeps fun _ _ _ => rfl)) 0

/-- PUT under the lock when its bytes are there and fit, whether or not it carries a data operand (R143 to R145). -/
theorem putBody_of_stored {s : State} {n : Nat} {m : Memory} (hn : s.noSpace n = false)
    (hd : n ≤ (s.operandData.getD []).length)
    (hm : memWrite s.params.width s.params.maxCapacity s.mask s.wc 0 ((s.operandData.getD []).take n) s.storage =
      .ok m) : putBody n s = .next (putDone s.turn n { s with storage := m }) := by
  rw [putBody, hn, if_neg Bool.false_ne_true, if_neg (Nat.not_lt.2 hd), clampPut_eq hn, hm]

theorem optionBlind_putBody (n : Nat) : optionBlind (putBody n) := by
  intro s t on a e
  rcases putBody_next e with ⟨hn, rfl⟩ | ⟨hn, hd, m, hm, rfl⟩
  · exact ⟨a, if_pos hn⟩
  · exact ⟨_, putBody_of_stored (s := s.withOption on a) hn hd hm⟩

theorem optionBlind_getBody (req : Nat) : optionBlind (getBody req) := by
  intro s t on a e
  rcases getBody_next e with ⟨he, rfl⟩ | ⟨he, out, hm, rfl⟩
  · exact ⟨a, if_pos he⟩
  · obtain ⟨b, hb⟩ := updateBlind_getDone s.turn (s.clampGet req) out s on a
    exact ⟨b, (getBody_of_read (s := s.withOption on a) he hm).trans (congrArg _ hb)⟩

/-- Settles O60: every operation is made of blind gates, checks and endings. -/
theorem optionChangesNoResult : Obligations.OptionChangesNoResult := by
  intro i s t on a
  suffices h : optionBlind (exec i) from h s t on a
  cases i with
  | init c => exact optionBlind_unlessFatal (optionBlind_initBody c)
  | reset =>
    exact optionBlind_underLock (body := fun s => .next (resetDone s.turn s))
      (optionBlind_next fun _ _ _ => ⟨_, rfl⟩) 0
  | isEmpty | isFull =>
    refine optionBlind_whenReady ?_ 0
    exact optionBlind_next (updateBlind_of_keeps fun _ _ _ => rfl)
  | len =>
    exact optionBlind_underLock (body := fun s => .next (lenDone s.turn s))
      (optionBlind_next (updateBlind_of_keeps fun _ _ _ => rfl)) 0
  | put n =>
    exact optionBlind_unlessFatal <| optionBlind_ite (fun _ _ _ => Iff.rfl) (optionBlind_refused _) <|
      optionBlind_underLock (optionBlind_putBody n) 0
  | get req => exact optionBlind_underLock (optionBlind_getBody req) req
  | release => exact optionBlind_execRelease

end Sys2Proof.Machine
end

section
/-! Exceptions (60_exceptions.md): an operation that is not answered OK has no effect but its answer (R239), and in FATAL
nothing runs but the hardware reset (R232, R244). -/

namespace Sys2Proof.Machine

/-! ### Rejections -/

/-- An operation waits, is answered with nothing else changed, takes the fatal fault or is answered OK: only the last
two commit anything (R162, R239). -/
theorem ExecResult.ending_cases {s t : State} {i : Instr} (h : ExecResult s i t) :
    t = s ∨ (∃ st v, t = s.answer s.turn st v []) ∨ t.slot s.turn = .unanswered ∨
      ∃ w v bs, t.slot s.turn = .answered w ⟨.ok, v, bs⟩ := by
  cases h with
  | waits => exact .inl rfl
  | answers i st v => exact .inr (.inl ⟨st, v, rfl⟩)
  | answersLocked i st v _ hf => exact .inr (.inl ⟨st, v, releaseLock_answer_acquire hf s.turn s.turn st v []⟩)
  | fatal => exact .inr (.inr (.inl (slot_of_setSlot rfl)))
  | inits | releases | resets | puts => exact .inr (.inr (.inr ⟨_, _, _, slot_of_setSlot rfl⟩))
  | gets => exact .inr (.inr (.inr ⟨_, _, _, slot_of_setSlot (getDone_slots ..)⟩))

/-- Settles O27: of the endings only the answer alone leaves a response with another status than OK. -/
theorem rejectionsChangeNothing : Obligations.RejectionsChangeNothing := by
  intro s t op w rsp hissued hserve hanswered hstatus
  rcases serve_next hserve with rfl | ⟨_, _, _, hresult⟩
  · exact nomatch hissued.symm.trans hanswered
  rcases hresult.ending_cases with rfl | ⟨st, v, rfl⟩ | hfatal | ⟨_, _, _, hok⟩
  · exact nomatch hissued.symm.trans hanswered
  · obtain ⟨⟨hslot, hrest⟩, hframe⟩ := onlyAnswered_answer s st v
    obtain ⟨_, rfl⟩ := Slot.answered.inj (hslot.symm.trans hanswered)
    exact ⟨rfl, hrest, hframe⟩
  · exact nomatch hfatal.symm.trans hanswered
  · obtain ⟨_, rfl⟩ := Slot.answered.inj (hok.symm.trans hanswered)
    exact absurd rfl hstatus

/-! ### FATAL -/

theorem unlessFatal_of_fatal {s : State} (h : s.life = .fatal) (body : State → Out) :
    unlessFatal body s = .fault .fatalState :=
  if_pos h

theorem serve_of_fatal {s : State} (h : s.life = .fatal) : serve s = .fault .fatalState :=
  unlessFatal_of_fatal h _

theorem clkEdge_of_fatal {inp : PortIn} {s : State} (hr : inp.rst = false) (h : s.life = .fatal) :
    clkEdge inp s = .fault .fatalState := by
  rw [clkEdge, hr, if_neg Bool.false_ne_true, unlessFatal_of_fatal h]

/-- In FATAL no move of an agent runs but the hardware reset (R232, R244). -/
theorem runEvent_of_fatal {e : Event} {s : State} (hr : ∀ inp, e = .edge inp → inp.rst = false)
    (h : s.life = .fatal) : runEvent e s = .fault .fatalState := by
  cases e with
  | issue | ret | oedge | observe => exact unlessFatal_of_fatal h _
  | effect r => exact serve_of_fatal (s := { s with turn := r }) h
  | edge inp => exact clkEdge_of_fatal (hr inp rfl) h

/-- Settles O25: every way to run anything passes the FATAL gate, but for the edge of the hardware reset. -/
theorem fatalAcceptsNothing : Obligations.FatalAcceptsNothing := by
  intro s hl
  refine ⟨exec_of_fatal hl, fun hs => (step_nil hs).trans (serve_of_fatal hl), fun e rest hs => ⟨fun hr => ?_, ?_⟩⟩
  · exact (step_cons hs).trans (runEvent_of_fatal (s := { s with script := rest }) hr hl)
  · rintro inp rfl hr
    obtain ⟨t, hstep, hlife, _, hfatal, _⟩ := hardwareReset s inp rest hs hr
    exact ⟨t, hstep, hlife, hfatal⟩

end Sys2Proof.Machine
end
